-- ==== Sys2Proof/Word.lean ====
section
/-! DEFINITION. The bytes and words of the block: a byte of a buffer (00_scope.md R9) and a word of the host port
(20_memory.md R48, R50). -/

namespace Sys2Proof

/-- 8 bits, bit 0 the least significant (R9). -/
abbrev Byte := BitVec 8

/-- One 32-bit word of the host port (R50). -/
abbrev Word := BitVec 32

end Sys2Proof
end

