-- ==== Sys2Proof/Config.lean ====
section
/-! DEFINITION. The parameters the spec leaves open (00_scope.md R7, R8) as types, and the free values of the buffer bytes
whose contents no rule fixes (93_implementation_defined.md I5, I6). The reference registry REG_VBAN itself stands in
Machine/Registry.lean. The constants of R6 stand as numerals where the rules use them: a header has 28 bytes, a name 16, a
packet at most 1436, a payload at most 1408. -/

namespace Sys2Proof

/-- A name of AFMT_TABLE (R82). A registry other than REG_VBAN may hold names of its own (I13): `other`. -/
inductive AudioFormat where
  | byte8 | int16 | int24 | int32 | float32 | float64 | bits12 | bits10
  | other (label : Nat)
  deriving DecidableEq, Repr

/-- A name of SFMT_TABLE (R83). -/
inductive SerialFormat where
  | byte8
  | other (label : Nat)
  deriving DecidableEq, Repr

/-- A name of TFMT_TABLE (R84). -/
inductive CommandFormat where
  | ascii
  | other (label : Nat)
  deriving DecidableEq, Repr

/-- A partial map from a 5-bit index to an entry (R8): `none` is an index with no entry. -/
abbrev Table (α : Type) := Vector (Option α) 32

/-- The Field Registry `REG` (R7, R8): the closed sets of data rates and formats and the default index of each. -/
structure Registry where
  srTable   : Table Nat
  bpsTable  : Table Nat
  afmtTable : Table AudioFormat
  sfmtTable : Table SerialFormat
  tfmtTable : Table CommandFormat
  defSr     : BitVec 5
  defBps    : BitVec 5
  defAfmt   : BitVec 5
  defSfmt   : BitVec 5
  defTfmt   : BitVec 5
  deriving DecidableEq, Repr

/-- The parameters `REG` and `DBUF_CAP` of R7. `N_REQ` is the number of requesters the port of a state has
(notes/assumptions/3.md). -/
structure Params where
  reg     : Registry
  dbufCap : Nat
  deriving DecidableEq, Repr

/-- FREE VALUE: the byte that DBUF[k] holds after the reset number `epoch` while no host write has reached it (10_state.md
R43; I5: drawn at reset, any value). It has no body, so nothing in Lean knows one of its values. DESIGN CHOICE of the
form only (notes/assumptions/4.md). -/
opaque Config.unwrittenDbuf : Nat → Nat → Byte

/-- FREE VALUE: what PKT[k] holds where `k` is at PKTLEN or above, after the draw number `pktEpoch`: "unspecified after reset
and after any command" (10_state.md R40). No rule makes such a byte visible in a state a run reaches
(notes/assumptions/5.md). -/
opaque Config.unwrittenPkt : Nat → Nat → Byte

end Sys2Proof
end

