-- ==== Sys2Proof/Syntax.lean ====
section
/-! DEFINITION. The commands of the block (one constructor for each row of spec/opcode_table.json), the accesses of the
host port, the events of a run, and the assembly language of host programs (30_encoding.md R92, R93). -/

namespace Sys2Proof

/-- The nine commands of the opcode map, 30_encoding.md R86. LOAD_DEFAULTS has the one operand of the command set, the
protocol tag (R87); every value of its 3 bits is a command. -/
inductive Instr where
  | nop
  | encode
  | decode
  | pktCreate
  | pktAttach
  | pktDecode
  | loadDefaults (t : BitVec 3)
  | build
  | genCreate
  deriving DecidableEq, Repr

/-- One access of the host port, 20_memory.md R50: a whole word, named by its 12-bit word address (R48). -/
inductive Access where
  | read  (wa : BitVec 12)
  | write (wa : BitVec 12) (data : Word)
  deriving DecidableEq, Repr

/-- What may happen next, 20_memory.md R62: the port takes the next access of one requester, or a reset. -/
inductive Event where
  | grant (requester : Nat)
  | reset
  deriving DecidableEq, Repr

/-! The names of the address map, 20_memory.md R49. -/

/-- The one-word registers of the address map. -/
inductive RegName where
  | cmd | status | errFld | errVal | counter | dlen | pktLen | pldLen
  | fProto | fRate | fSamp | fChan | fFmt | fCodec | fNameLen | fFrame
  | gProto | gRate | gSamp | gChan | gFmt | gCodec | gNameLen
  deriving DecidableEq, Repr

/-- The byte-buffer windows of the address map. -/
inductive BufName where
  | fName | hdr | gName | pkt | pld | dbuf
  deriving DecidableEq, Repr

/-- What a word address names: a register, word `w` of a window, or a reserved word. -/
inductive Place where
  | reg (r : RegName)
  | buf (b : BufName) (w : Nat)
  | reserved
  deriving DecidableEq, Repr

/-! The assembly language of host programs. -/

/-- A `<target>` of R92: a register name, a buffer word `HDR+w`, or a byte offset `@0x...`. -/
inductive Target where
  | reg (r : RegName)
  | buf (b : BufName) (w : Nat)
  | offset (o : Nat)
  deriving DecidableEq, Repr

/-- The statements of R92 and the pseudo-instructions of R93. A name `"s"` is given by its bytes. -/
inductive Stmt where
  | wr (t : Target) (v : Word)
  | rd (t : Target)
  | cmd (i : Instr)
  | ldName (s : List Byte)
  | ldFields (t r s c f k fr : Word)
  | ldHdr (b : Vector Byte 28)
  | ldBuf (b : List Byte)
  | rdHdr
  | rdPkt (n : Nat)
  deriving DecidableEq, Repr

end Sys2Proof
end

