-- ==== Sys2Proof/Decode.lean ====
section
/-! DEFINITION. The command word: its decoder, total on every 32-bit word and refusing by name (30_encoding.md R85, R86,
R88), and the encoder written from the same format. -/

namespace Sys2Proof

/-- Why a word selects no command, in the order R88 and R134 test it. -/
inductive DecodeRefusal where
  /-- RSV, bits [31:11], is not 0. -/
  | reservedBits
  /-- ARG, bits [10:8], is not 0 and OP is not LOAD_DEFAULTS. -/
  | argument
  /-- OP is 0x09 to 0xFF. -/
  | opcode
  deriving DecidableEq, Repr

/-- OP, bits [7:0] of a command word (R85). -/
def opField (w : Word) : BitVec 8 := w.extractLsb' 0 8
/-- ARG, bits [10:8] of a command word (R85). -/
def argField (w : Word) : BitVec 3 := w.extractLsb' 8 3
/-- RSV, bits [31:11] of a command word (R85). -/
def rsvField (w : Word) : BitVec 21 := w.extractLsb' 11 21

/-- `Dispatch(w)` of R88: the command a word selects, or why it selects none. -/
def decode (w : Word) : Except DecodeRefusal Instr :=
  if rsvField w ≠ 0 then .error .reservedBits
  else if opField w = 0x06 then .ok (.loadDefaults (argField w))
  else if argField w ≠ 0 then .error .argument
  else if opField w = 0x00 then .ok .nop
  else if opField w = 0x01 then .ok .encode
  else if opField w = 0x02 then .ok .decode
  else if opField w = 0x03 then .ok .pktCreate
  else if opField w = 0x04 then .ok .pktAttach
  else if opField w = 0x05 then .ok .pktDecode
  else if opField w = 0x07 then .ok .build
  else if opField w = 0x08 then .ok .genCreate
  else .error .opcode

/-- The opcode of each command (R86). -/
def opcode : Instr → BitVec 8
  | .nop            => 0x00
  | .encode         => 0x01
  | .decode         => 0x02
  | .pktCreate      => 0x03
  | .pktAttach      => 0x04
  | .pktDecode      => 0x05
  | .loadDefaults _ => 0x06
  | .build          => 0x07
  | .genCreate      => 0x08

/-- The ARG field of each command: LOAD_DEFAULTS' tag, else 0 (R85). -/
def argument : Instr → BitVec 3
  | .loadDefaults t => t
  | .nop | .encode | .decode | .pktCreate | .pktAttach | .pktDecode | .build | .genCreate => 0

/-- The command word of a command: RSV, ARG, OP from the top (R85). -/
def encode (i : Instr) : Word := (0 : BitVec 21) ++ argument i ++ opcode i

/-- The word that a table row's bits stand for: `nbits` bits of `w`, every bit above them 0. -/
def tableWord (nbits w : Nat) : Word := BitVec.ofNat 32 (w % 2 ^ nbits)

/-- The instruction the decoder reads from bits numbered as spec/opcode_table.json numbers them. Every command is one
32-bit word (R90), so there is nothing to lay out. -/
def decodeTableWord (nbits w : Nat) : Option Instr :=
  match decode (tableWord nbits w) with
  | .ok i    => some i
  | .error _ => none

end Sys2Proof
end

