-- ==== Sys2Proof/Machine/Registry.lean ====
section
/-! DEFINITION. The Field Registry: the reference contents REG_VBAN (30_encoding.md R80 to R84) and the look-up of an index
under a tag (R79), with the tags of R77: 0 Audio, 1 Serial, 2 Text, 3 Service. -/

namespace Sys2Proof.Machine

/-- The table whose first entries are `l` and whose other indices have no entry. -/
def tableOf {α : Type} (l : List α) : Table α := Vector.ofFn fun i => l[i.val]?

/-- The entry of a 5-bit index (R8). -/
def tableEntry {α : Type} (t : Table α) (i : BitVec 5) : Option α := t[i.toNat]'i.isLt

/-- SR_TABLE of REG_VBAN, in Hz (R80). -/
def srVban : List Nat :=
  [6000, 12000, 24000, 48000, 96000, 192000, 384000] ++
  [8000, 16000, 32000, 64000, 128000, 256000, 512000] ++
  [11025, 22050, 44100, 88200, 176400, 352800, 705600]

/-- BPS_TABLE of REG_VBAN, in bits per second (R81). -/
def bpsVban : List Nat :=
  [0, 110, 150, 300, 600, 1200, 2400, 4800, 9600] ++
  [14400, 19200, 31250, 38400, 57600, 115200, 128000, 230400, 250000] ++
  [256000, 460800, 921600, 1000000, 1500000, 2000000, 3000000]

/-- AFMT_TABLE of REG_VBAN (R82). -/
def afmtVban : List AudioFormat :=
  [.byte8, .int16, .int24, .int32, .float32, .float64, .bits12, .bits10]

/-- REG_VBAN, the default registry (R80 to R84). -/
def registryVban : Registry where
  srTable   := tableOf srVban
  bpsTable  := tableOf bpsVban
  afmtTable := tableOf afmtVban
  sfmtTable := tableOf [.byte8]
  tfmtTable := tableOf [.ascii]
  defSr   := 3
  defBps  := 18
  defAfmt := 1
  defSfmt := 0
  defTfmt := 0

/-- The parameter values of the test vectors: REG_VBAN and DBUF_CAP = 2048 (R7). -/
def paramsVban : Params := { reg := registryVban, dbufCap := 2048 }

/-- `RateTable(t)(i)` has an entry (R79). Neither table function is defined for a tag of 3 or more, and no rule reads one
there: such a tag has no entry. -/
def rateResolves (reg : Registry) (t : BitVec 3) (i : BitVec 5) : Bool :=
  if t = 0 then (tableEntry reg.srTable i).isSome
  else if t = 1 then (tableEntry reg.bpsTable i).isSome
  else if t = 2 then (tableEntry reg.bpsTable i).isSome
  else false

/-- `FmtTable(t)(i)` has an entry (R79). -/
def fmtResolves (reg : Registry) (t : BitVec 3) (i : BitVec 5) : Bool :=
  if t = 0 then (tableEntry reg.afmtTable i).isSome
  else if t = 1 then (tableEntry reg.sfmtTable i).isSome
  else if t = 2 then (tableEntry reg.tfmtTable i).isSome
  else false

/-- The assigned codec numbers PCM, VBCA, VBCV and USER (R78; 90_conflicts.md C1). -/
def codecAssigned (k : BitVec 4) : Bool := k = 0x0 || k = 0x1 || k = 0x2 || k = 0xF

end Sys2Proof.Machine
end

