-- ==== Sys2Proof/Machine/State.lean ====
section
/-! DEFINITION. The state of the block as plain data: every element of the inventory of 10_state.md R17, the parameters
of 00_scope.md R7, and the outside world's side of the host port; the error taxonomy of 60_exceptions.md; the state after
reset (70_reset_and_hazards.md R148). -/

namespace Sys2Proof.Machine

/-- A byte buffer too large to write out: the bytes that something has written, by index, strictly rising. A byte not
listed has no known value. -/
abbrev Memory := List Host.Cell

/-- The layout the field registers and the generator configuration share (10_state.md R38). -/
structure HeaderConfig where
  /-- FPROTO.TAG or GPROTO.TAG (R26). -/
  tag     : BitVec 3
  /-- FRATE.IDX or GRATE.IDX (R28). -/
  rate    : BitVec 5
  /-- FSAMP.VAL or GSAMP.VAL, the count itself, not minus 1 (R29). -/
  samp    : BitVec 16
  /-- FCHAN.VAL or GCHAN.VAL (R30). -/
  chan    : BitVec 16
  /-- FFMT.IDX or GFMT.IDX (R31). -/
  fmt     : BitVec 5
  /-- FCODEC.NIB or GCODEC.NIB (R32). -/
  codec   : BitVec 4
  /-- FNAMELEN.LEN or GNAMELEN.LEN (R33). -/
  namelen : BitVec 8
  /-- FNAME or GNAME (R35). -/
  name    : Vector Byte 16
  deriving DecidableEq, Repr

/-- A field tuple F of 40_header_codec.md; the field registers are one, with FFRAME.VAL as the frame (R34). -/
structure Fields extends HeaderConfig where
  frame : BitVec 32
  deriving DecidableEq, Repr

/-- The named errors, 60_exceptions.md R127. -/
inductive Err where
  | badMagic | unsupportedProtocol | invalidPacketAttribute | invalidConfiguration | alreadyHasData
  | payloadTooLarge | invalidHeader | missingRequiredField | notReady | illegalCommand
  deriving DecidableEq, Repr

/-- What the failing gate checked, 60_exceptions.md R128. -/
inductive Fld where
  | magic | protocol | rate | samples | channels | format | codec | length
  | headerState | packetState | generatorState | command
  deriving DecidableEq, Repr

/-- `raise E(fld, raw)`: the error triple of 00_scope.md R11 and R13. -/
structure Failure where
  err : Err
  fld : Fld
  raw : Word
  deriving DecidableEq, Repr

/-- One host requester, outside the block (10_state.md R46). -/
structure Requester where
  /-- The accesses it has still to issue, in its order. -/
  program  : List Access
  /-- The word addresses it has read and the words it was given, oldest first (R156). -/
  returned : List (BitVec 12 × Word)
  deriving DecidableEq, Repr

/-- The outside world at the host port: the N_REQ requesters, and the order in which the port takes their accesses and
resets (20_memory.md R62; notes/assumptions/1.md). -/
structure Port where
  requesters : List Requester
  schedule   : List Event
  deriving DecidableEq, Repr

/-- The state. Its fields from `err` to `dbuf` are the elements of 10_state.md R17; `params`, `epoch`, `pktEpoch` and `port`
are the model's own (notes/assumptions/1.md to 5.md). -/
structure State where
  /-- REG and DBUF_CAP (00_scope.md R7); no step writes them. -/
  params  : Params
  /-- STATUS.ERR (R19). -/
  err     : BitVec 8
  /-- STATUS.HV (R19, R37). -/
  hv      : Bool
  /-- STATUS.PV (R19, R41). -/
  pv      : Bool
  /-- STATUS.HD (R19, R42). -/
  hd      : Bool
  /-- STATUS.GV (R19, R39). -/
  gv      : Bool
  /-- STATUS.PSET (R19, R27). -/
  pset    : Bool
  /-- ERRFLD.FLD (R20). -/
  errFld  : BitVec 4
  /-- ERRVAL.RAW (R21). -/
  errVal  : BitVec 32
  /-- COUNTER.VAL (R22). -/
  counter : BitVec 32
  /-- DLEN.LEN (R23). -/
  dlen    : BitVec 16
  /-- PKTLEN.LEN (R24). -/
  pktLen  : BitVec 11
  /-- The field registers FPROTO to FFRAME and FNAME (R26 to R35). -/
  f       : Fields
  /-- HDR[0..27] (R36). -/
  hdr     : Vector Byte 28
  /-- The generator configuration GPROTO to GNAMELEN and GNAME (R38). -/
  g       : HeaderConfig
  /-- PKT[0..PKTLEN-1], the part of PKT[0..1435] whose contents the rules fix (R40). -/
  pkt     : Memory
  /-- DBUF[0..DBUF_CAP-1] (R43). -/
  dbuf    : Memory
  /-- The number of resets so far: it selects the free values of the DBUF bytes nothing has written. -/
  epoch   : Nat
  /-- The number of resets and new packets so far: it selects the free values of the PKT bytes past PKTLEN. -/
  pktEpoch : Nat
  /-- The outside world at the host port. -/
  port    : Port
  deriving DecidableEq, Repr

/-- The reasons to stop with a fault: there are none. Every access completes, and every command succeeds or raises a named
error in the error registers (93_implementation_defined.md: "No behaviour of this spec is `stuck`"; R156). -/
inductive Fault where
  deriving DecidableEq, Repr

/-- The reasons to refuse. -/
inductive Refusal where
  /-- The host's name for an instruction without a meaning. Only an arm of exec may answer it; no arm does. Safe. -/
  | notModelled (mnemonic : String)
  deriving DecidableEq, Repr

/-- All configuration registers 0, the name all 0x00 (R148). -/
def HeaderConfig.zero : HeaderConfig where
  tag := 0
  rate := 0
  samp := 0
  chan := 0
  fmt := 0
  codec := 0
  namelen := 0
  name := Vector.replicate 16 0

/-- The state after reset (R148), with the parameters of the test vectors (R7) and nothing yet asked of the port (R144). -/
def State.reset : State where
  params := paramsVban
  err := 0x00
  hv := false
  pv := false
  hd := false
  gv := false
  pset := false
  errFld := 0
  errVal := 0
  counter := 0
  dlen := 0
  pktLen := 0
  f := { toHeaderConfig := HeaderConfig.zero, frame := 0 }
  hdr := Vector.replicate 28 0
  g := HeaderConfig.zero
  pkt := []
  dbuf := []
  epoch := 0
  pktEpoch := 0
  port := { requesters := [{ program := [], returned := [] }, { program := [], returned := [] }], schedule := [] }

end Sys2Proof.Machine
end

