-- ==== Sys2Proof/Machine/Ops.lean ====
section
/-! DEFINITION. The operations shared by every meaning: byte order and byte lanes (00_scope.md R9, R10; 20_memory.md R54),
reading and writing a byte buffer, raising an error and ending in success (60_exceptions.md R129, R130), and the reset
event (70_reset_and_hazards.md R147). -/

namespace Sys2Proof.Machine

/-! ### Bytes and words -/

/-- `BE32` of R10: the first byte is the most significant. -/
def be32 (b0 b1 b2 b3 : Byte) : Word := b0 ++ b1 ++ b2 ++ b3

/-- Byte lane `i` of a word, bits `[31 - 8i : 24 - 8i]` (R54); also byte `i` of `BYTES_BE32` (R10). -/
def laneByte (d : Word) (i : Nat) : Byte := d.extractLsb' (24 - 8 * i) 8

/-- Byte `k` of a buffer that is held whole; 0x00 past its end, where no rule reads. -/
def byteAt {n : Nat} (v : Vector Byte n) (k : Nat) : Byte := if h : k < n then v[k] else 0x00

/-- `word(B, w)` of R54, over any way to read byte `k`. -/
def laneWord (byte : Nat → Byte) (w : Nat) : Word :=
  be32 (byte (4 * w)) (byte (4 * w + 1)) (byte (4 * w + 2)) (byte (4 * w + 3))

/-- `write(B, w, d)` of R54 on a buffer that is held whole. -/
def setWord {n : Nat} (v : Vector Byte n) (w : Nat) (d : Word) : Vector Byte n :=
  Vector.ofFn fun i => if i.val / 4 = w then laneByte d (i.val % 4) else v[i]

/-! ### Sparse buffers: PKT and DBUF -/

/-- The canonical form: indices strictly rising, each below the buffer's size. No listed byte can equal what an unlisted
one reads as, since an unlisted byte has no known value. -/
abbrev Memory.wf (size : Nat) (m : Memory) : Prop :=
  m.Pairwise (fun a b => a.1 < b.1) ∧ ∀ c ∈ m, c.1 < size

/-- The byte written at an index, if one has been. -/
def Memory.read? : Memory → Nat → Option Byte
  | [], _ => none
  | c :: m, k => if c.1 = k then some c.2 else Memory.read? m k

/-- The cells of the bytes `bs` from index `base` on. -/
def Memory.cells : Nat → List Byte → Memory
  | _, [] => []
  | base, b :: bs => (base, b) :: Memory.cells (base + 1) bs

/-- The buffer after the bytes `bs` are written from index `base` on. -/
def Memory.write (m : Memory) (base : Nat) (bs : List Byte) : Memory :=
  m.filter (fun c => c.1 < base) ++ Memory.cells base bs ++ m.filter (fun c => base + bs.length ≤ c.1)

/-- `DBUF[k]`: the byte last written, or the free value of this reset (10_state.md R43; I5). -/
def State.dbufByte (s : State) (k : Nat) : Byte :=
  (Memory.read? s.dbuf k).getD (Config.unwrittenDbuf s.epoch k)

/-- `DBUF[0 .. n-1]`. -/
def State.dbufBytes (s : State) (n : Nat) : List Byte := (List.range n).map s.dbufByte

/-- `PKT[k]`: the byte of the packet, or, past it, the free value (10_state.md R40). -/
def State.pktByte (s : State) (k : Nat) : Byte :=
  (Memory.read? s.pkt k).getD (Config.unwrittenPkt s.pktEpoch k)

/-- `PKT[0 .. n-1]`. -/
def State.pktBytes (s : State) (n : Nat) : List Byte := (List.range n).map s.pktByte

/-- The packet becomes the bytes `bs`, and PKTLEN their number; what PKT holds past them is unspecified anew
(10_state.md R24, R40). -/
def State.setPacket (s : State) (bs : List Byte) : State :=
  { s with pkt := Memory.cells 0 bs, pktLen := BitVec.ofNat 11 bs.length, pktEpoch := s.pktEpoch + 1 }

/-- A host write of one DBUF word: all four lanes (20_memory.md R52, R54). -/
def State.writeDbufWord (s : State) (w : Nat) (d : Word) : State :=
  { s with dbuf := Memory.write s.dbuf (4 * w) [laneByte d 0, laneByte d 1, laneByte d 2, laneByte d 3] }

/-! ### The end of a command -/

/-- STATUS.ERR of each named error (R127). -/
def errCode : Err → BitVec 8
  | .badMagic               => 0x01
  | .unsupportedProtocol    => 0x02
  | .invalidPacketAttribute => 0x03
  | .invalidConfiguration   => 0x04
  | .alreadyHasData         => 0x05
  | .payloadTooLarge        => 0x06
  | .invalidHeader          => 0x07
  | .missingRequiredField   => 0x08
  | .notReady               => 0x09
  | .illegalCommand         => 0x0A

/-- ERRFLD.FLD of each field or state a gate checks (R128). -/
def fldCode : Fld → BitVec 4
  | .magic          => 1
  | .protocol       => 2
  | .rate           => 3
  | .samples        => 4
  | .channels       => 5
  | .format         => 6
  | .codec          => 7
  | .length         => 8
  | .headerState    => 9
  | .packetState    => 10
  | .generatorState => 11
  | .command        => 12

/-- R129, taking an error: the three error registers are written and nothing else. No vector, no mode, no saved state
(R137), and nothing to return from (R138). -/
def State.raise (s : State) (e : Failure) : State :=
  { s with err := errCode e.err, errFld := fldCode e.fld, errVal := e.raw }

/-- R130, `ok`: the error registers say success. -/
def State.succeed (s : State) : State := { s with err := 0x00, errFld := 0, errVal := 0 }

/-- A command body run as one indivisible step (00_scope.md R12): its writes stand if it reaches `ok`; after a `raise` all
of them are discarded. -/
def State.complete (s : State) (body : Except Failure State) : State :=
  match body with
  | .ok s'   => s'.succeed
  | .error e => s.raise e

/-! ### The outside world -/

/-- The same block with another outside world at its port. -/
def State.withPort (s : State) (p : Port) : State := { s with port := p }

/-! ### Reset -/

/-- The reset event (R147): every element of the block takes its reset value (R148). The parameters are not reset
(10_state.md R45); the outside world goes on from where it is (notes/assumptions/7.md); the bytes of the buffers become
unknown anew, which the next epoch's free values say. -/
def State.resetEvent (s : State) : State :=
  { State.reset with params := s.params, port := s.port, epoch := s.epoch + 1, pktEpoch := s.pktEpoch + 1 }

end Sys2Proof.Machine
end

