-- ==== Sys2Proof/Machine/Control.lean ====
section
/-! DEFINITION. NOP (60_exceptions.md R132). -/

namespace Sys2Proof.Machine

/-- NOP (OP 0x00), R132: `ok`, so the error registers are cleared and nothing else changes. -/
def execNop (s : State) : Host.Outcome State Fault Refusal := .next (s.complete (.ok s))

end Sys2Proof.Machine
end

