-- ==== Sys2Proof/Machine/Flags.lean ====
section
/-! DEFINITION. The flags of STATUS (10_state.md R19; the block has no other condition codes, R47): how a read lays them
out, and what sets and clears each of them. -/

namespace Sys2Proof.Machine

/-- The STATUS word (R19): ERR [7:0], HV [8], PV [9], HD [10], GV [11], PSET [12], 0 above. -/
def State.statusWord (s : State) : Word :=
  (0 : BitVec 19) ++ BitVec.ofBool s.pset ++ BitVec.ofBool s.gv ++ BitVec.ofBool s.hd ++ BitVec.ofBool s.pv ++
    BitVec.ofBool s.hv ++ s.err

/-- HV is set: HDR holds a header this block produced or validated (R37). -/
def State.headerProduced (s : State) (h : Vector Byte 28) : State := { s with hdr := h, hv := true }

/-- HV is cleared: the host wrote word `w` of HDR, whatever the data (R37). -/
def State.hostWroteHdr (s : State) (w : Nat) (d : Word) : State := { s with hdr := setWord s.hdr w d, hv := false }

/-- PSET is set: the host wrote FPROTO, whatever the data (R27). -/
def State.hostWroteProto (s : State) (t : BitVec 3) : State := { s with f := { s.f with tag := t }, pset := true }

end Sys2Proof.Machine
end

