-- ==== Sys2Proof/Machine/Operands.lean ====
section
/-! DEFINITION. The operands of the commands: none but LOAD_DEFAULTS' tag comes from the command word; all others are read
from state when the command runs (30_encoding.md R87). -/

namespace Sys2Proof.Machine

/-- `DBUF[0..27]`, the header part of the wire packet (41_packet_framer.md R110). -/
def State.dbufHeader (s : State) : Vector Byte 28 := Vector.ofFn fun i => s.dbufByte i.val

/-- `G_regs` together with a frame value (40_header_codec.md, opening; 42_generator.md R120). -/
def genFields (g : HeaderConfig) (frame : BitVec 32) : Fields := { toHeaderConfig := g, frame := frame }

/-- PLDLEN.LEN, computed on every read (10_state.md R25). -/
def State.pldLen (s : State) : BitVec 11 := if s.pv then s.pktLen - 28 else 0

/-- Byte `k` of the `bytes()` view: PKT[k] below PKTLEN, else 0x00 (20_memory.md R57). -/
def State.bytesView (s : State) (k : Nat) : Byte := if k < s.pktLen.toNat then s.pktByte k else 0x00

/-- Byte `j` of the `payload()` view (20_memory.md R58). -/
def State.payloadView (s : State) (j : Nat) : Byte :=
  if s.pv && decide (28 + j < s.pktLen.toNat) then s.pktByte (28 + j) else 0x00

end Sys2Proof.Machine
end

