-- ==== Sys2Proof/Machine/HeaderCodec.lean ====
section
/-! DEFINITION. The header codec: Validate, NameEnc, Pack, NameDec, Unpack and WriteFields (40_header_codec.md R94 to R99,
the wire format 30_encoding.md R70 to R75), and the commands ENCODE (R100) and DECODE (R101). -/

namespace Sys2Proof.Machine

/-- `Validate(F)`, R94: the gates V1 to V7 in order, each with the raw value of 60_exceptions.md R131. -/
def validate (reg : Registry) (c : HeaderConfig) : Except Failure Unit :=
  if 4 ≤ c.tag.toNat then .error ⟨.invalidConfiguration, .protocol, c.tag.setWidth 32⟩
  else if c.tag = 3 then .error ⟨.unsupportedProtocol, .protocol, c.tag.setWidth 32⟩
  else if !rateResolves reg c.tag c.rate then .error ⟨.invalidConfiguration, .rate, c.rate.setWidth 32⟩
  else if c.samp.toNat < 1 ∨ 256 < c.samp.toNat then .error ⟨.invalidConfiguration, .samples, c.samp.setWidth 32⟩
  else if c.chan.toNat < 1 ∨ 256 < c.chan.toNat then .error ⟨.invalidConfiguration, .channels, c.chan.setWidth 32⟩
  else if !fmtResolves reg c.tag c.fmt then .error ⟨.invalidConfiguration, .format, c.fmt.setWidth 32⟩
  else if !codecAssigned c.codec then .error ⟨.invalidConfiguration, .codec, c.codec.setWidth 32⟩
  else .ok ()

/-- `NameEnc(name, len)`, R95: the first min(len, 16) bytes, then 0x00. -/
def nameEnc (name : Vector Byte 16) (len : BitVec 8) : Vector Byte 16 :=
  Vector.ofFn fun i => if i.val < min len.toNat 16 then name[i] else 0x00

/-- Byte `k` of the packed header, R96 and R70: bytes 4 to 7 as R71, R72 and R73 pack them, the name at 8 to 23 (R74), the
frame counter at 24 to 27 (R75). -/
def packByte (f : Fields) (k : Nat) : Byte :=
  if k = 0 then 0x56
  else if k = 1 then 0x42
  else if k = 2 then 0x41
  else if k = 3 then 0x4E
  else if k = 4 then (f.tag.setWidth 8 <<< 5) ||| f.rate.setWidth 8
  else if k = 5 then (f.samp - 1).setWidth 8
  else if k = 6 then (f.chan - 1).setWidth 8
  else if k = 7 then f.fmt.setWidth 8 ||| (f.codec.setWidth 8 <<< 4)
  else if k < 24 then byteAt (nameEnc f.name f.namelen) (k - 8)
  else laneByte f.frame (k - 24)

/-- `Pack(F)`, R96. -/
def pack (f : Fields) : Vector Byte 28 := Vector.ofFn fun i => packByte f i.val

/-- The length `NameDec` gives, R97: one more than the index of the last byte that is not 0x00. -/
def nameDecLen (b : Vector Byte 16) : Nat :=
  (List.finRange 16).foldl (fun len i => if b[i] ≠ 0x00 then i.val + 1 else len) 0

/-- Bytes 8 to 23 of a header (R74). -/
def headerName (h : Vector Byte 28) : Vector Byte 16 := Vector.ofFn fun i => h[i.val + 8]

/-- The tag of a header, `h[4] >> 5` (R98, R71). -/
def headerTag (h : Vector Byte 28) : BitVec 3 := (h[4] >>> 5).setWidth 3

/-- The fields of a header whose gates have passed, R98. `NameDec` returns all 16 name bytes (R97). -/
def headerFields (h : Vector Byte 28) : Fields where
  tag     := headerTag h
  rate    := (h[4] &&& 0x1F).setWidth 5
  samp    := h[5].setWidth 16 + 1
  chan    := h[6].setWidth 16 + 1
  fmt     := (h[7] &&& 0x1F).setWidth 5
  codec   := ((h[7] &&& 0xF0) >>> 4).setWidth 4
  namelen := BitVec.ofNat 8 (nameDecLen (headerName h))
  name    := headerName h
  frame   := be32 h[24] h[25] h[26] h[27]

/-- The magic "VBAN" (00_scope.md R6) as BE32. -/
def magicWord : Word := 0x5642414E

/-- `Unpack(h)`, R98: the gates U1 to U6 in order, each with the raw value of 60_exceptions.md R131. -/
def unpack (reg : Registry) (h : Vector Byte 28) : Except Failure Fields :=
  if be32 h[0] h[1] h[2] h[3] ≠ magicWord then .error ⟨.badMagic, .magic, be32 h[0] h[1] h[2] h[3]⟩
  else if 4 ≤ (headerTag h).toNat then .error ⟨.invalidHeader, .protocol, (h[4] &&& 0xE0).setWidth 32⟩
  else if headerTag h = 3 then .error ⟨.unsupportedProtocol, .protocol, (h[4] &&& 0xE0).setWidth 32⟩
  else if !rateResolves reg (headerTag h) (headerFields h).rate then
    .error ⟨.invalidPacketAttribute, .rate, (h[4] &&& 0x1F).setWidth 32⟩
  else if !fmtResolves reg (headerTag h) (headerFields h).fmt then
    .error ⟨.invalidPacketAttribute, .format, (h[7] &&& 0x1F).setWidth 32⟩
  else if !codecAssigned (headerFields h).codec then
    .error ⟨.invalidPacketAttribute, .codec, (h[7] &&& 0xF0).setWidth 32⟩
  else .ok (headerFields h)

/-- `WriteFields(F)`, R99. -/
def State.writeFields (s : State) (f : Fields) : State := { s with f := f, pset := true }

/-- The body of ENCODE, R100. -/
def encodeBody (s : State) : Except Failure State :=
  match validate s.params.reg s.f.toHeaderConfig with
  | .error e => .error e
  | .ok ()   => .ok (s.headerProduced (pack s.f))

/-- ENCODE (OP 0x01), R100. -/
def execEncode (s : State) : Host.Outcome State Fault Refusal := .next (s.complete (encodeBody s))

/-- The body of DECODE, R101: HDR itself is never written. -/
def decodeBody (s : State) : Except Failure State :=
  match unpack s.params.reg s.hdr with
  | .error e => .error e
  | .ok f    => .ok ((s.writeFields f).headerProduced s.hdr)

/-- DECODE (OP 0x02), R101. -/
def execDecode (s : State) : Host.Outcome State Fault Refusal := .next (s.complete (decodeBody s))

end Sys2Proof.Machine
end

