-- ==== Sys2Proof/Machine/Generator.lean ====
section
/-! DEFINITION. The generator: the per-protocol defaults (42_generator.md R117) and LOAD_DEFAULTS, BUILD and GEN_CREATE
(R118 to R120). -/

namespace Sys2Proof.Machine

/-- "Stream1" in ASCII (R117). -/
def nameStream1 : List Byte := [0x53, 0x74, 0x72, 0x65, 0x61, 0x6D, 0x31]
/-- "MIDI1" in ASCII (R117). -/
def nameMidi1 : List Byte := [0x4D, 0x49, 0x44, 0x49, 0x31]
/-- "Command1" in ASCII (R117). -/
def nameCommand1 : List Byte := [0x43, 0x6F, 0x6D, 0x6D, 0x61, 0x6E, 0x64, 0x31]

/-- A name padded with 0x00 to 16 bytes (R118); a longer one is cut to its first 16 (R74). -/
def padName (s : List Byte) : Vector Byte 16 := Vector.ofFn fun i => (s[i.val]?).getD 0x00

/-- One row of the table of R117, the codec PCM. -/
def defaultConfig (t : BitVec 3) (rate : BitVec 5) (samp chan : BitVec 16) (fmt : BitVec 5) (name : List Byte) :
    HeaderConfig where
  tag     := t
  rate    := rate
  samp    := samp
  chan    := chan
  fmt     := fmt
  codec   := 0x0
  namelen := BitVec.ofNat 8 name.length
  name    := padName name

/-- `Defaults(t)`, R117, behind the gates L1 and L2 of R118. -/
def defaults (reg : Registry) (t : BitVec 3) : Except Failure HeaderConfig :=
  if 4 ≤ t.toNat then .error ⟨.invalidConfiguration, .protocol, t.setWidth 32⟩
  else if t = 3 then .error ⟨.unsupportedProtocol, .protocol, t.setWidth 32⟩
  else if t = 0 then .ok (defaultConfig t reg.defSr 256 2 reg.defAfmt nameStream1)
  else if t = 1 then .ok (defaultConfig t reg.defBps 1 1 reg.defSfmt nameMidi1)
  else .ok (defaultConfig t reg.defBps 1 1 reg.defTfmt nameCommand1)

/-- The body of LOAD_DEFAULTS, R118: FFRAME is untouched. -/
def loadDefaultsBody (t : BitVec 3) (s : State) : Except Failure State :=
  match defaults s.params.reg t with
  | .error e => .error e
  | .ok d    => .ok (s.writeFields (genFields d s.f.frame))

/-- LOAD_DEFAULTS (OP 0x06), R118. -/
def execLoadDefaults (t : BitVec 3) (s : State) : Host.Outcome State Fault Refusal :=
  .next (s.complete (loadDefaultsBody t s))

/-- The body of BUILD, R119: B1, then Validate, then the copy; FFRAME is not copied. -/
def buildBody (s : State) : Except Failure State :=
  if !s.pset then .error ⟨.missingRequiredField, .protocol, 0⟩
  else
    match validate s.params.reg s.f.toHeaderConfig with
    | .error e => .error e
    | .ok ()   => .ok { s with g := s.f.toHeaderConfig, counter := 0, gv := true }

/-- BUILD (OP 0x07), R119. -/
def execBuild (s : State) : Host.Outcome State Fault Refusal := .next (s.complete (buildBody s))

/-- The body of GEN_CREATE, R120: the header is packed with COUNTER as its frame, then COUNTER advances modulo 2^32. -/
def genCreateBody (s : State) : Except Failure State :=
  if !s.gv then .error ⟨.notReady, .generatorState, 0⟩
  else .ok { s.headerProduced (pack (genFields s.g s.counter)) with counter := s.counter + 1 }

/-- GEN_CREATE (OP 0x08), R120. -/
def execGenCreate (s : State) : Host.Outcome State Fault Refusal := .next (s.complete (genCreateBody s))

end Sys2Proof.Machine
end

