-- ==== Sys2Proof/Machine/PacketFramer.lean ====
section
/-! DEFINITION. The packet framer: PKT_CREATE, PKT_ATTACH and PKT_DECODE (41_packet_framer.md R108 to R110). -/

namespace Sys2Proof.Machine

/-- The body of PKT_CREATE, R108. -/
def pktCreateBody (s : State) : Except Failure State :=
  if !s.hv then .error ⟨.notReady, .headerState, 0⟩
  else .ok { s.setPacket s.hdr.toList with pv := true, hd := false }

/-- PKT_CREATE (OP 0x03), R108. -/
def execPktCreate (s : State) : Host.Outcome State Fault Refusal := .next (s.complete (pktCreateBody s))

/-- The body of PKT_ATTACH, R109: the gates A1, A2, A3, then DBUF[0 .. n-1] after PKT[0 .. 27]. -/
def pktAttachBody (s : State) : Except Failure State :=
  let n := s.dlen.toNat
  if !s.pv then .error ⟨.notReady, .packetState, 0⟩
  else if s.hd then .error ⟨.alreadyHasData, .packetState, s.pktLen.setWidth 32⟩
  else if 1436 < 28 + n then .error ⟨.payloadTooLarge, .length, s.dlen.setWidth 32⟩
  else .ok { s.setPacket (s.pktBytes 28 ++ s.dbufBytes n) with hd := true }

/-- PKT_ATTACH (OP 0x04), R109. -/
def execPktAttach (s : State) : Host.Outcome State Fault Refusal := .next (s.complete (pktAttachBody s))

/-- The body of PKT_DECODE, R110: the gates P1 and P2, those of Unpack, then the header, the fields and the envelope. -/
def pktDecodeBody (s : State) : Except Failure State :=
  let n := s.dlen.toNat
  if n < 28 then .error ⟨.invalidHeader, .length, s.dlen.setWidth 32⟩
  else if 1436 < n then .error ⟨.payloadTooLarge, .length, s.dlen.setWidth 32⟩
  else
    match unpack s.params.reg s.dbufHeader with
    | .error e => .error e
    | .ok f    =>
      .ok { ((s.headerProduced s.dbufHeader).writeFields f).setPacket (s.dbufBytes n) with pv := true, hd := true }

/-- PKT_DECODE (OP 0x05), R110. -/
def execPktDecode (s : State) : Host.Outcome State Fault Refusal := .next (s.complete (pktDecodeBody s))

end Sys2Proof.Machine
end

