-- ==== Sys2Proof/Machine/Dispatch.lean ====
section
/-! DEFINITION. One arm for each command of the opcode map (30_encoding.md R86). -/

namespace Sys2Proof.Machine

def exec (i : Instr) (s : State) : Host.Outcome State Fault Refusal :=
  match i with
  | .nop => Sys2Proof.Machine.execNop s
  | .encode => Sys2Proof.Machine.execEncode s
  | .decode => Sys2Proof.Machine.execDecode s
  | .pktCreate => Sys2Proof.Machine.execPktCreate s
  | .pktAttach => Sys2Proof.Machine.execPktAttach s
  | .pktDecode => Sys2Proof.Machine.execPktDecode s
  | .loadDefaults t => Sys2Proof.Machine.execLoadDefaults t s
  | .build => Sys2Proof.Machine.execBuild s
  | .genCreate => Sys2Proof.Machine.execGenCreate s

end Sys2Proof.Machine
end

