-- ==== Sys2Proof/Machine/HostPort.lean ====
section
/-! DEFINITION. The host port: the address map (20_memory.md R49) and what a read returns and a write stores at each place
(R50 to R59). A write to CMD, which runs a command, is in Machine/Access.lean. -/

namespace Sys2Proof.Machine

/-- The byte offset of a register (R49). -/
def regOffset : RegName → Nat
  | .cmd      => 0x000
  | .status   => 0x004
  | .errFld   => 0x008
  | .errVal   => 0x00C
  | .counter  => 0x010
  | .dlen     => 0x014
  | .pktLen   => 0x018
  | .pldLen   => 0x01C
  | .fProto   => 0x020
  | .fRate    => 0x024
  | .fSamp    => 0x028
  | .fChan    => 0x02C
  | .fFmt     => 0x030
  | .fCodec   => 0x034
  | .fNameLen => 0x038
  | .fFrame   => 0x03C
  | .gProto   => 0x080
  | .gRate    => 0x084
  | .gSamp    => 0x088
  | .gChan    => 0x08C
  | .gFmt     => 0x090
  | .gCodec   => 0x094
  | .gNameLen => 0x098

/-- The byte offset at which a window starts (R49). -/
def bufBase : BufName → Nat
  | .fName => 0x040
  | .hdr   => 0x050
  | .gName => 0x0A0
  | .pkt   => 0x800
  | .pld   => 0x1000
  | .dbuf  => 0x2000

/-- The register at a byte offset of a word, if one is there (R49). -/
def regAt (off : Nat) : Option RegName :=
  match off with
  | 0x000 => some .cmd
  | 0x004 => some .status
  | 0x008 => some .errFld
  | 0x00C => some .errVal
  | 0x010 => some .counter
  | 0x014 => some .dlen
  | 0x018 => some .pktLen
  | 0x01C => some .pldLen
  | 0x020 => some .fProto
  | 0x024 => some .fRate
  | 0x028 => some .fSamp
  | 0x02C => some .fChan
  | 0x030 => some .fFmt
  | 0x034 => some .fCodec
  | 0x038 => some .fNameLen
  | 0x03C => some .fFrame
  | 0x080 => some .gProto
  | 0x084 => some .gRate
  | 0x088 => some .gSamp
  | 0x08C => some .gChan
  | 0x090 => some .gFmt
  | 0x094 => some .gCodec
  | 0x098 => some .gNameLen
  | _     => none

/-- The window that covers a byte offset, if one does (R49); the DBUF window ends at DBUF_CAP (R59). -/
def windowAt (cap off : Nat) : Option BufName :=
  if 0x040 ≤ off ∧ off < 0x050 then some .fName
  else if 0x050 ≤ off ∧ off < 0x06C then some .hdr
  else if 0x0A0 ≤ off ∧ off < 0x0B0 then some .gName
  else if 0x800 ≤ off ∧ off < 0xD9C then some .pkt
  else if 0x1000 ≤ off ∧ off < 0x1580 then some .pld
  else if 0x2000 ≤ off ∧ off < 0x2000 + cap then some .dbuf
  else none

/-- What a word address names (R48, R49); every other word is reserved (R51). -/
def locate (cap : Nat) (wa : BitVec 12) : Place :=
  let off := 4 * wa.toNat
  match regAt off with
  | some r => .reg r
  | none   =>
    match windowAt cap off with
    | some b => .buf b ((off - bufBase b) / 4)
    | none   => .reserved

/-- The word a read of a register returns: its fields at their bits, 0 in every other bit, and 0 from CMD (R51). -/
def State.readReg (s : State) : RegName → Word
  | .cmd      => 0
  | .status   => s.statusWord
  | .errFld   => s.errFld.setWidth 32
  | .errVal   => s.errVal
  | .counter  => s.counter
  | .dlen     => s.dlen.setWidth 32
  | .pktLen   => s.pktLen.setWidth 32
  | .pldLen   => s.pldLen.setWidth 32
  | .fProto   => s.f.tag.setWidth 32
  | .fRate    => s.f.rate.setWidth 32
  | .fSamp    => s.f.samp.setWidth 32
  | .fChan    => s.f.chan.setWidth 32
  | .fFmt     => s.f.fmt.setWidth 32
  | .fCodec   => s.f.codec.setWidth 32
  | .fNameLen => s.f.namelen.setWidth 32
  | .fFrame   => s.f.frame
  | .gProto   => s.g.tag.setWidth 32
  | .gRate    => s.g.rate.setWidth 32
  | .gSamp    => s.g.samp.setWidth 32
  | .gChan    => s.g.chan.setWidth 32
  | .gFmt     => s.g.fmt.setWidth 32
  | .gCodec   => s.g.codec.setWidth 32
  | .gNameLen => s.g.namelen.setWidth 32

/-- Byte `k` of a window as a read shows it (R55 to R59). -/
def State.bufByte (s : State) : BufName → Nat → Byte
  | .fName => byteAt s.f.name
  | .hdr   => byteAt s.hdr
  | .gName => byteAt s.g.name
  | .pkt   => s.bytesView
  | .pld   => s.payloadView
  | .dbuf  => s.dbufByte

/-- The word a read returns (R51). -/
def State.readPlace (s : State) : Place → Word
  | .reg r    => s.readReg r
  | .buf b w  => laneWord (s.bufByte b) w
  | .reserved => 0

/-- `PortRead(wa)`: the word a read of `wa` returns. A read changes no state of the block (R51). -/
def State.portRead (s : State) (wa : BitVec 12) : Word := s.readPlace (locate s.params.dbufCap wa)

/-- A write of a register but CMD: the bits that fall inside its fields are stored, the others ignored; a write of a
read-only register changes nothing (R52). A write of FPROTO sets PSET (R53). -/
def State.writeReg (s : State) (d : Word) : RegName → State
  | .dlen     => { s with dlen := d.setWidth 16 }
  | .fProto   => s.hostWroteProto (d.setWidth 3)
  | .fRate    => { s with f := { s.f with rate := d.setWidth 5 } }
  | .fSamp    => { s with f := { s.f with samp := d.setWidth 16 } }
  | .fChan    => { s with f := { s.f with chan := d.setWidth 16 } }
  | .fFmt     => { s with f := { s.f with fmt := d.setWidth 5 } }
  | .fCodec   => { s with f := { s.f with codec := d.setWidth 4 } }
  | .fNameLen => { s with f := { s.f with namelen := d.setWidth 8 } }
  | .fFrame   => { s with f := { s.f with frame := d } }
  | .cmd | .status | .errFld | .errVal | .counter | .pktLen | .pldLen => s
  | .gProto | .gRate | .gSamp | .gChan | .gFmt | .gCodec | .gNameLen => s

/-- A write of word `w` of a window: all four lanes of FNAME, HDR and DBUF, nothing in a read-only window (R52). A write of
HDR clears HV (R53). -/
def State.writeBuf (s : State) (d : Word) (w : Nat) : BufName → State
  | .fName => { s with f := { s.f with name := setWord s.f.name w d } }
  | .hdr   => s.hostWroteHdr w d
  | .dbuf  => s.writeDbufWord w d
  | .gName | .pkt | .pld => s

/-- A write of a place that is not CMD (R52). -/
def State.writePlace (s : State) (d : Word) : Place → State
  | .reg r    => s.writeReg d r
  | .buf b w  => s.writeBuf d w b
  | .reserved => s

end Sys2Proof.Machine
end

