-- ==== Sys2Proof/Machine/Access.lean ====
section
/-! DEFINITION. One step of the block, as 20_memory.md R62 describes it: the port takes the next access of one requester,
or a reset happens. A write to CMD runs its command inside the access (10_state.md R18, R16: there is no fetch). -/

namespace Sys2Proof.Machine

/-- A word written to CMD: the command it selects runs, or IllegalCommand is raised (30_encoding.md R88; 60_exceptions.md
R133). -/
def issueWord (w : Word) (s : State) : Host.Outcome State Fault Refusal :=
  match decode w with
  | .ok i    => exec i s
  | .error _ => .next (s.raise ⟨.illegalCommand, .command, w⟩)

/-- `PortWrite(wa, d)` (20_memory.md R52). -/
def portWrite (wa : BitVec 12) (d : Word) (s : State) : Host.Outcome State Fault Refusal :=
  match locate s.params.dbufCap wa with
  | .reg .cmd => issueWord d s
  | p         => .next (s.writePlace d p)

/-- Requester `r` is given the word its read of `wa` returned (R62, R156): outside the block, nothing in it changes. -/
def State.deliver (s : State) (r : Nat) (wa : BitVec 12) (v : Word) : State :=
  s.withPort { s.port with
    requesters := s.port.requesters.modify r fun q => { q with returned := q.returned ++ [(wa, v)] } }

/-- One access of requester `r` (R50). Which requester it is decides only who is given a read's word (60_exceptions.md
R144). -/
def performAccess (r : Nat) (a : Access) (s : State) : Host.Outcome State Fault Refusal :=
  match a with
  | .read wa    => .next (s.deliver r wa (s.portRead wa))
  | .write wa d => portWrite wa d s

/-- The access requester `r` issues next, if it has one. -/
def Port.nextAccess (p : Port) (r : Nat) : Option Access := (p.requesters[r]?).bind fun q => q.program.head?

/-- The state once the port has taken the schedule's first event. -/
def State.takeEvent (s : State) : State := s.withPort { s.port with schedule := s.port.schedule.tail }

/-- The state once the port has taken the schedule's first event and requester `r`'s first access with it. -/
def State.takeAccess (s : State) (r : Nat) : State :=
  s.withPort
    { requesters := s.port.requesters.modify r fun q => { q with program := q.program.tail }
      schedule   := s.port.schedule.tail }

/-- The next step. With nothing scheduled the block rests (70_reset_and_hazards.md R156); a grant to a requester that has
no access to issue passes (notes/assumptions/6.md). -/
def runNext (s : State) : Host.Outcome State Fault Refusal :=
  match s.port.schedule with
  | []            => .next s
  | .reset :: _   => .next s.takeEvent.resetEvent
  | .grant r :: _ =>
    match s.port.nextAccess r with
    | none   => .next s.takeEvent
    | some a => performAccess r a (s.takeAccess r)

end Sys2Proof.Machine
end

