-- ==== Sys2Proof/Machine/Step.lean ====
section
/-! DEFINITION. The step of the machine, and how a command word is placed so that the next step runs it. -/

namespace Sys2Proof.Machine

/-- One step (20_memory.md R62). -/
def step (s : State) : Host.Outcome State Fault Refusal := runNext s

/-- `s` with the command word of a table row placed where the next step takes it: it is the first access of requester 0, a
write to CMD, and the port takes requester 0 next (notes/assumptions/2.md). All that was asked of the port before stays
behind it. -/
def State.withFetchWord (s : State) (nbits w : Nat) : State :=
  s.withPort
    { requesters :=
        match s.port.requesters with
        | []      => [{ program := [.write 0 (tableWord nbits w)], returned := [] }]
        | q :: qs => { q with program := .write 0 (tableWord nbits w) :: q.program } :: qs
      schedule := .grant 0 :: s.port.schedule }

end Sys2Proof.Machine
end

