-- ==== Sys2Proof/WellFormed.lean ====
section
/-! DEFINITION. Which terms of the syntax and which parameters are well formed: the bounds of the windows in an assembly
statement (30_encoding.md R92, R93; 20_memory.md R49) and the constraints of 00_scope.md R7 and R8 on the parameters. -/

namespace Sys2Proof

/-- Every term of Instr is an instruction: LOAD_DEFAULTS' operand is the 3 bits ARG, and each of its values selects the
command (30_encoding.md R87, R88). The check refuses nothing; the types already carry it. -/
def Instr.wf : Instr → Bool
  | .nop | .encode | .decode | .pktCreate | .pktAttach | .pktDecode | .build | .genCreate => true
  | .loadDefaults t => decide (t.toNat < 8)

/-- The words of a window (20_memory.md R49). -/
def BufName.words (cap : Nat) : BufName → Nat
  | .fName => 4
  | .hdr   => 7
  | .gName => 4
  | .pkt   => 359
  | .pld   => 352
  | .dbuf  => cap / 4

/-- A target names a word of the 16 KiB host space (20_memory.md R48): a window word lies in its window, a byte offset is
that of a word. -/
def Target.wf (cap : Nat) : Target → Bool
  | .reg _    => true
  | .buf b w  => decide (w < b.words cap)
  | .offset o => decide (o % 4 = 0 ∧ o < 0x4000)

/-- A statement all of whose accesses name words that exist (30_encoding.md R92, R93). -/
def Stmt.wf (cap : Nat) : Stmt → Bool
  | .wr t _   => t.wf cap
  | .rd t     => t.wf cap
  | .cmd i    => i.wf
  | .ldName _ => true
  | .ldFields _ _ _ _ _ _ _ => true
  | .ldHdr _  => true
  | .ldBuf b  => decide (b.length ≤ cap)
  | .rdHdr    => true
  | .rdPkt n  => decide (n ≤ 1436)

/-- R8: each table has the entry that a default of R117 needs. -/
def Registry.wf (reg : Registry) : Bool :=
  Machine.tableEntry reg.srTable reg.defSr = some 48000 &&
  Machine.tableEntry reg.bpsTable reg.defBps = some 256000 &&
  Machine.tableEntry reg.afmtTable reg.defAfmt = some .int16 &&
  Machine.tableEntry reg.sfmtTable reg.defSfmt = some .byte8 &&
  Machine.tableEntry reg.tfmtTable reg.defTfmt = some .ascii

/-- R7: DBUF_CAP is a multiple of 4 from 1440 to 8192, and REG meets R8. -/
def Params.wf (p : Params) : Bool :=
  p.reg.wf && decide (p.dbufCap % 4 = 0) && decide (1440 ≤ p.dbufCap) && decide (p.dbufCap ≤ 8192)

end Sys2Proof
end

