-- ==== Sys2Proof/Machine/Assembler.lean ====
section
/-! DEFINITION. The assembler of host programs: the accesses that a statement or a pseudo-instruction stands for
(30_encoding.md R92, R93). -/

namespace Sys2Proof.Machine

/-- The byte offset of a target (R92, 20_memory.md R49). -/
def targetOffset : Target → Nat
  | .reg r    => regOffset r
  | .buf b w  => bufBase b + 4 * w
  | .offset o => o

/-- The word address of a target (20_memory.md R48). -/
def targetAddr (t : Target) : BitVec 12 := BitVec.ofNat 12 (targetOffset t / 4)

/-- `WR <target>, <value>` (R92). -/
def asmWr (t : Target) (v : Word) : Access := .write (targetAddr t) v

/-- `RD <target>` (R92). -/
def asmRd (t : Target) : Access := .read (targetAddr t)

/-- Word `w` of a byte string, 0x00 past its end (R93). -/
def bytesWord (b : List Byte) (w : Nat) : Word := laneWord (fun k => (b[k]?).getD 0x00) w

/-- The words that `n` bytes fill: ceil(n/4) (R93). -/
def wordsFor (n : Nat) : Nat := (n + 3) / 4

/-- The accesses of a statement, in order (R92, R93). -/
def assemble : Stmt → List Access
  | .wr t v   => [asmWr t v]
  | .rd t     => [asmRd t]
  | .cmd i    => [asmWr (.reg .cmd) (encode i)]
  | .ldName s =>
    (List.range 4).map (fun w => asmWr (.buf .fName w) (bytesWord (s.take 16) w)) ++
      [asmWr (.reg .fNameLen) (BitVec.ofNat 32 (min s.length 255))]
  | .ldFields t r s c f k fr =>
    [asmWr (.reg .fProto) t, asmWr (.reg .fRate) r, asmWr (.reg .fSamp) s, asmWr (.reg .fChan) c,
     asmWr (.reg .fFmt) f, asmWr (.reg .fCodec) k, asmWr (.reg .fFrame) fr]
  | .ldHdr b  => (List.range 7).map fun w => asmWr (.buf .hdr w) (bytesWord b.toList w)
  | .ldBuf b  =>
    (List.range (wordsFor b.length)).map (fun w => asmWr (.buf .dbuf w) (bytesWord b w)) ++
      [asmWr (.reg .dlen) (BitVec.ofNat 32 b.length)]
  | .rdHdr    => (List.range 7).map fun w => asmRd (.buf .hdr w)
  | .rdPkt n  => (List.range (wordsFor n)).map fun w => asmRd (.buf .pkt w)

end Sys2Proof.Machine
end

