-- ==== Sys2Proof/Safety.lean ====
section
/-! DEFINITION. The terms the statements use: the conditions of the spec's rules written on numbers, apart from the
functions the machine runs (the gates, the layout of a header, the address map), the invariant of 10_state.md R44, the
states a run can reach, and the frames that the GEN_CREATEs of a run write. -/

namespace Sys2Proof.Machine

/-! ### The address map, on byte offsets -/

/-- The word address of a byte offset (20_memory.md R48). -/
def wordAddr (off : Nat) : BitVec 12 := BitVec.ofNat 12 (off / 4)

/-- The width of the field of a read/write register (10_state.md R17). -/
def fieldWidth : RegName → Option Nat
  | .dlen     => some 16
  | .fProto   => some 3
  | .fRate    => some 5
  | .fSamp    => some 16
  | .fChan    => some 16
  | .fFmt     => some 5
  | .fCodec   => some 4
  | .fNameLen => some 8
  | .fFrame   => some 32
  | .cmd | .status | .errFld | .errVal | .counter | .pktLen | .pldLen => none
  | .gProto | .gRate | .gSamp | .gChan | .gFmt | .gCodec | .gNameLen => none

/-- The reserved byte offsets of 20_memory.md R49. -/
def ReservedOffset (cap off : Nat) : Prop :=
  (0x06C ≤ off ∧ off < 0x080) ∨ (0x09C ≤ off ∧ off < 0x0A0) ∨ (0x0B0 ≤ off ∧ off < 0x800) ∨
  (0xD9C ≤ off ∧ off < 0x1000) ∨ (0x1580 ≤ off ∧ off < 0x2000) ∨ (0x2000 + cap ≤ off ∧ off < 0x4000)

/-! ### The registry and the gates, on numbers -/

/-- Index `i` has an entry (00_scope.md R8). -/
def HasEntry {α : Type} (t : Table α) (i : Nat) : Prop := ∃ e, t[i]? = some (some e)

/-- The data-rate index resolves under the tag (30_encoding.md R79). -/
def RateKnown (reg : Registry) (tag i : Nat) : Prop :=
  (tag = 0 ∧ HasEntry reg.srTable i) ∨ ((tag = 1 ∨ tag = 2) ∧ HasEntry reg.bpsTable i)

/-- The format index resolves under the tag (30_encoding.md R79). -/
def FmtKnown (reg : Registry) (tag i : Nat) : Prop :=
  (tag = 0 ∧ HasEntry reg.afmtTable i) ∨ (tag = 1 ∧ HasEntry reg.sfmtTable i) ∨ (tag = 2 ∧ HasEntry reg.tfmtTable i)

/-- An assigned codec number (30_encoding.md R78). -/
def CodecKnown (k : Nat) : Prop := k = 0x0 ∨ k = 0x1 ∨ k = 0x2 ∨ k = 0xF

/-- A count that the wire can carry (30_encoding.md R72). -/
def CountLegal (n : Nat) : Prop := 1 ≤ n ∧ n ≤ 256

/-- A field tuple that every gate of `Validate` lets pass (40_header_codec.md R94). -/
structure Encodable (reg : Registry) (c : HeaderConfig) : Prop where
  tag   : c.tag.toNat < 3
  rate  : RateKnown reg c.tag.toNat c.rate.toNat
  samp  : CountLegal c.samp.toNat
  chan  : CountLegal c.chan.toNat
  fmt   : FmtKnown reg c.tag.toNat c.fmt.toNat
  codec : CodecKnown c.codec.toNat

/-- An error as the host reads it: STATUS.ERR, ERRFLD, ERRVAL (60_exceptions.md R127, R128, R131). -/
structure ErrorReport where
  code : Nat
  fld  : Nat
  raw  : Nat
  deriving DecidableEq, Repr

/-- `s` with the error registers reporting `r` and nothing else changed (60_exceptions.md R129). -/
def State.reporting (s : State) (r : ErrorReport) : State :=
  { s with err := BitVec.ofNat 8 r.code, errFld := BitVec.ofNat 4 r.fld, errVal := BitVec.ofNat 32 r.raw }

/-- The first gate of `Validate` that fails, and what it reports (40_header_codec.md R94; 60_exceptions.md R127, R128,
R131): each constructor asks that the gates before it pass. -/
inductive EncodeGate (reg : Registry) (c : HeaderConfig) : ErrorReport → Prop where
  | v1 : 4 ≤ c.tag.toNat → EncodeGate reg c ⟨0x04, 2, c.tag.toNat⟩
  | v2 : c.tag.toNat = 3 → EncodeGate reg c ⟨0x02, 2, 3⟩
  | v3 : c.tag.toNat < 3 → ¬ RateKnown reg c.tag.toNat c.rate.toNat → EncodeGate reg c ⟨0x04, 3, c.rate.toNat⟩
  | v4 : c.tag.toNat < 3 → RateKnown reg c.tag.toNat c.rate.toNat → ¬ CountLegal c.samp.toNat →
      EncodeGate reg c ⟨0x04, 4, c.samp.toNat⟩
  | v5 : c.tag.toNat < 3 → RateKnown reg c.tag.toNat c.rate.toNat → CountLegal c.samp.toNat →
      ¬ CountLegal c.chan.toNat → EncodeGate reg c ⟨0x04, 5, c.chan.toNat⟩
  | v6 : c.tag.toNat < 3 → RateKnown reg c.tag.toNat c.rate.toNat → CountLegal c.samp.toNat →
      CountLegal c.chan.toNat → ¬ FmtKnown reg c.tag.toNat c.fmt.toNat → EncodeGate reg c ⟨0x04, 6, c.fmt.toNat⟩
  | v7 : c.tag.toNat < 3 → RateKnown reg c.tag.toNat c.rate.toNat → CountLegal c.samp.toNat →
      CountLegal c.chan.toNat → FmtKnown reg c.tag.toNat c.fmt.toNat → ¬ CodecKnown c.codec.toNat →
      EncodeGate reg c ⟨0x04, 7, c.codec.toNat⟩

/-- The first four bytes are "VBAN" (00_scope.md R6). -/
def MagicOk (h : Vector Byte 28) : Prop := h[0] = 0x56 ∧ h[1] = 0x42 ∧ h[2] = 0x41 ∧ h[3] = 0x4E

/-- Four bytes as one number, the first the most significant (00_scope.md R10). -/
def be32Nat (b0 b1 b2 b3 : Byte) : Nat := b0.toNat * 2 ^ 24 + b1.toNat * 2 ^ 16 + b2.toNat * 2 ^ 8 + b3.toNat

/-- A header that every gate of `Unpack` lets pass (40_header_codec.md R98). -/
structure Decodable28 (reg : Registry) (h : Vector Byte 28) : Prop where
  magic : MagicOk h
  tag   : h[4].toNat / 32 < 3
  rate  : RateKnown reg (h[4].toNat / 32) (h[4].toNat % 32)
  fmt   : FmtKnown reg (h[4].toNat / 32) (h[7].toNat % 32)
  codec : CodecKnown (h[7].toNat / 16)

/-- The first gate of `Unpack` that fails, and what it reports (40_header_codec.md R98; 60_exceptions.md R131: the masked
raw values). -/
inductive DecodeGate (reg : Registry) (h : Vector Byte 28) : ErrorReport → Prop where
  | u1 : ¬ MagicOk h → DecodeGate reg h ⟨0x01, 1, be32Nat h[0] h[1] h[2] h[3]⟩
  | u2 : MagicOk h → 4 ≤ h[4].toNat / 32 → DecodeGate reg h ⟨0x07, 2, h[4].toNat / 32 * 32⟩
  | u3 : MagicOk h → h[4].toNat / 32 = 3 → DecodeGate reg h ⟨0x02, 2, 0x60⟩
  | u4 : MagicOk h → h[4].toNat / 32 < 3 → ¬ RateKnown reg (h[4].toNat / 32) (h[4].toNat % 32) →
      DecodeGate reg h ⟨0x03, 3, h[4].toNat % 32⟩
  | u5 : MagicOk h → h[4].toNat / 32 < 3 → RateKnown reg (h[4].toNat / 32) (h[4].toNat % 32) →
      ¬ FmtKnown reg (h[4].toNat / 32) (h[7].toNat % 32) → DecodeGate reg h ⟨0x03, 6, h[7].toNat % 32⟩
  | u6 : MagicOk h → h[4].toNat / 32 < 3 → RateKnown reg (h[4].toNat / 32) (h[4].toNat % 32) →
      FmtKnown reg (h[4].toNat / 32) (h[7].toNat % 32) → ¬ CodecKnown (h[7].toNat / 16) →
      DecodeGate reg h ⟨0x03, 7, h[7].toNat / 16 * 16⟩

/-! ### The layout of a header -/

/-- `h` is the header of `f`: 40_header_codec.md R96, with the name as R95 gives it. The two fields of byte 7 are ORed
(30_encoding.md R73). -/
structure HeaderOf (f : Fields) (h : Vector Byte 28) : Prop where
  magic : MagicOk h
  byte4 : h[4].toNat = f.tag.toNat * 32 + f.rate.toNat
  byte5 : h[5].toNat = f.samp.toNat - 1
  byte6 : h[6].toNat = f.chan.toNat - 1
  byte7 : h[7].toNat = f.fmt.toNat ||| f.codec.toNat * 16
  name  : ∀ i : Fin 16, h[8 + i.val] = if i.val < min f.namelen.toNat 16 then f.name[i] else 0x00
  frame : be32Nat h[24] h[25] h[26] h[27] = f.frame.toNat

/-- `len` is the length `NameDec` gives for the name bytes `b` (40_header_codec.md R97): every byte from it on is 0x00, and
the byte before it, if there is one, is not. -/
structure NameLen (b : Vector Byte 16) (len : Nat) : Prop where
  bound   : len ≤ 16
  padding : ∀ i : Fin 16, len ≤ i.val → b[i] = 0x00
  last    : ∀ i : Fin 16, i.val + 1 = len → b[i] ≠ 0x00

/-- `f` holds the fields decoded from `h`: 40_header_codec.md R98, with the name as R97 gives it. -/
structure FieldsOf (h : Vector Byte 28) (f : Fields) : Prop where
  tag     : f.tag.toNat = h[4].toNat / 32
  rate    : f.rate.toNat = h[4].toNat % 32
  samp    : f.samp.toNat = h[5].toNat + 1
  chan    : f.chan.toNat = h[6].toNat + 1
  fmt     : f.fmt.toNat = h[7].toNat % 32
  codec   : f.codec.toNat = h[7].toNat / 16
  name    : ∀ i : Fin 16, f.name[i] = h[8 + i.val]
  namelen : NameLen f.name f.namelen.toNat
  frame   : f.frame.toNat = be32Nat h[24] h[25] h[26] h[27]

/-! ### The invariant -/

/-- A header this block produced or validated (10_state.md R37, R44 item 6). -/
def GoodHeader (reg : Registry) (h : Vector Byte 28) : Prop :=
  (∃ f : Fields, Encodable reg f.toHeaderConfig ∧ HeaderOf f h) ∨ Decodable28 reg h

/-- `PKT[0..27]`. -/
def State.pktHeader (s : State) : Vector Byte 28 := Vector.ofFn fun i => s.pktByte i.val

/-- What holds in every state a run reaches: 10_state.md R44, the codes of 60_exceptions.md R127 and R128, the constraints
of 00_scope.md R7 and R8, and the canonical form of the two sparse buffers. -/
structure BlockInv (s : State) : Prop where
  params      : s.params.wf = true
  requesters  : 1 ≤ s.port.requesters.length
  noEnvelope  : s.pv = false → s.pktLen.toNat = 0 ∧ s.hd = false
  envelope    : s.pv = true → 28 ≤ s.pktLen.toNat ∧ s.pktLen.toNat ≤ 1436
  unattached  : s.pv = true → s.hd = false → s.pktLen.toNat = 28
  framed      : s.pv = true → GoodHeader s.params.reg s.pktHeader
  written     : ∀ k, k < s.pktLen.toNat → (Memory.read? s.pkt k).isSome = true
  generator   : s.gv = true → Encodable s.params.reg s.g
  header      : s.hv = true → GoodHeader s.params.reg s.hdr
  errCode     : s.err.toNat ≤ 0x0A
  errFld      : s.errFld.toNat ≤ 12
  dbufForm    : Memory.wf s.params.dbufCap s.dbuf
  pktForm     : Memory.wf s.pktLen.toNat s.pkt

/-! ### Runs -/

/-- The states of all runs: power-on with any parameters R7 allows and any port (any number of requesters, any programs, any
order), then steps. -/
inductive Reached : State → Prop where
  | powerOn (p : Params) (port : Port) : p.wf = true → 1 ≤ port.requesters.length →
      Reached { State.reset with params := p, port := port }
  | next (s t : State) : Reached s → step s = .next t → Reached t

/-- The accesses `as` performed one after the other, no other between them, by requester 0. -/
def runAccesses : List Access → State → Host.Outcome State Fault Refusal
  | [], s => .next s
  | a :: as, s =>
    match performAccess 0 a s with
    | .next t    => runAccesses as t
    | .fault r   => .fault r
    | .refused r => .refused r

/-- The command that the next step runs, if it runs one. -/
def State.nextCommand (s : State) : Option Instr :=
  match s.port.schedule with
  | .grant r :: _ =>
    match s.port.nextAccess r with
    | some (.write wa d) =>
      if locate s.params.dbufCap wa = .reg .cmd then
        match decode d with
        | .ok i    => some i
        | .error _ => none
      else none
    | some (.read _) => none
    | none           => none
  | .reset :: _ => none
  | []          => none

/-- The next step is a reset. -/
def State.nextIsReset (s : State) : Bool := s.port.schedule.head? = some .reset

/-- The next `k` steps run no BUILD and no reset (the premise of 42_generator.md R122 and R123). -/
def keepsGenerator : Nat → State → Prop
  | 0, _ => True
  | k + 1, s => s.nextCommand ≠ some .build ∧ s.nextIsReset = false ∧ ∀ t, step s = .next t → keepsGenerator k t

/-- The frames that the GEN_CREATEs among the next `k` steps write into HDR[24..27], in order, whoever issues them (R123). -/
def framesWritten : Nat → State → List Nat
  | 0, _ => []
  | k + 1, s =>
    match step s with
    | .next t =>
      if s.nextCommand = some .genCreate then be32Nat t.hdr[24] t.hdr[25] t.hdr[26] t.hdr[27] :: framesWritten k t
      else framesWritten k t
    | .fault _   => []
    | .refused _ => []

end Sys2Proof.Machine
end

