-- ==== Sys2Proof/Certificates/Slice0/Obligations.lean ====
section
/-! DEFINITION. The statements for the provers. `State.reporting`, `EncodeGate`, `DecodeGate`, `Encodable`, `Decodable28`,
`HeaderOf`, `FieldsOf`, `BlockInv` and `Reached` are those of Safety.lean: they are written on numbers, apart from the functions
the machine runs. A state written `{ s with … }` says the whole frame: every field not named keeps its value, every byte of
PKT and DBUF with it. `s.withPort p` is `s` with the outside world `p` and the whole block unchanged. -/

open Sys2Proof Sys2Proof.Machine

/-! ### The command word -/

/-- 30_encoding.md R86 and the command words of each command's rule: the words written out decode to their commands. -/
def Obligations.CommandWordsDecode : Prop :=
  decode 0x00000000 = .ok .nop ∧ decode 0x00000001 = .ok .encode ∧ decode 0x00000002 = .ok .decode ∧
  decode 0x00000003 = .ok .pktCreate ∧ decode 0x00000004 = .ok .pktAttach ∧ decode 0x00000005 = .ok .pktDecode ∧
  decode 0x00000106 = .ok (.loadDefaults 1) ∧ decode 0x00000007 = .ok .build ∧ decode 0x00000008 = .ok .genCreate

/-- 30_encoding.md R85 to R88: each command has one word, and no other word selects it. -/
def Obligations.EveryCommandHasOneWord : Prop :=
  ∀ i : Instr, i.wf = true → ∀ w : Word, decode w = .ok i ↔ w = encode i

/-- 30_encoding.md R88 and 60_exceptions.md R133: which words select a command, on the number the word is. -/
def Obligations.DecodeIsTotal : Prop :=
  ∀ w : Word,
    (∃ i, decode w = .ok i) ↔
      ¬ (w.toNat / 2 ^ 11 ≠ 0 ∨ 9 ≤ w.toNat % 2 ^ 8 ∨ (w.toNat / 2 ^ 8 % 8 ≠ 0 ∧ w.toNat % 2 ^ 8 ≠ 6))

/-- 60_exceptions.md R133: an illegal word written to CMD changes the error registers and nothing else. -/
def Obligations.IllegalCommandWordsRaise : Prop :=
  ∀ (s : State) (w : Word),
    w.toNat / 2 ^ 11 ≠ 0 ∨ 9 ≤ w.toNat % 2 ^ 8 ∨ (w.toNat / 2 ^ 8 % 8 ≠ 0 ∧ w.toNat % 2 ^ 8 ≠ 6) →
      portWrite (wordAddr 0x000) w s = .next (s.reporting ⟨0x0A, 12, w.toNat⟩)

/-! ### The step -/

/-- A step that takes a write performs it, and one that takes a command word runs its command: the port takes the access of
the requester the schedule names (20_memory.md R62), with the block as it is, and the write is that of `portWrite`; a word
that decodes, written to CMD, runs inside the access (10_state.md R18). Of every other write, illegal words written to CMD
among them, the statements on `portWrite` say what it does. The schedule is the model's form of the open arbitration
(log 1). -/
def Obligations.StepRunsTheDecodedCommand : Prop :=
  ∀ (s : State) (r : Nat) (rest : List Event) (wa : BitVec 12) (d : Word),
    s.port.schedule = .grant r :: rest → s.port.nextAccess r = some (.write wa d) →
      let taken : State := s.withPort
        { requesters := s.port.requesters.modify r fun q => { q with program := q.program.tail }
          schedule := rest }
      step s = portWrite wa d taken ∧
      (wa = wordAddr 0x000 → ∀ i : Instr, decode d = .ok i → step s = exec i taken)

/-- A word placed by withFetchWord is the next to run, on the state it was placed in (the model's own form, log 2). -/
def Obligations.PlacedWordRunsNext : Prop :=
  ∀ (s : State) (nbits w : Nat) (i : Instr),
    s.port.requesters ≠ [] → decodeTableWord nbits w = some i → step (s.withFetchWord nbits w) = exec i s

/-- A read gives its requester the word and changes nothing of the block (20_memory.md R51, R62). -/
def Obligations.ReadStepChangesNothing : Prop :=
  ∀ (s : State) (r : Nat) (rest : List Event) (wa : BitVec 12) (q : Requester) (more : List Access),
    s.port.schedule = .grant r :: rest → s.port.requesters[r]? = some q → q.program = .read wa :: more →
      ∃ t, step s = .next t ∧ t = s.withPort t.port ∧ t.port.schedule = rest ∧
        t.port.requesters.length = s.port.requesters.length ∧
        t.port.requesters[r]? = some { program := more, returned := q.returned ++ [(wa, s.portRead wa)] } ∧
        ∀ r', r' ≠ r → t.port.requesters[r']? = s.port.requesters[r']?

/-- The requester that issues an access does not matter to the block, nor does anything outside it to the word a read of the
block returns (60_exceptions.md R144: "A requester has no identifier visible to the block."). -/
def Obligations.RequestersAreIndistinguishable : Prop :=
  ∀ (s : State) (p : Port),
    (∀ (r r' : Nat) (a : Access),
      ∃ t t', performAccess r a s = .next t ∧ performAccess r' a (s.withPort p) = .next t' ∧
        t.withPort p = t'.withPort p) ∧
    ∀ wa : BitVec 12, (s.withPort p).portRead wa = s.portRead wa

/-- No access waits: every step of every state answers a next state (70_reset_and_hazards.md R156). -/
def Obligations.EveryStepCompletes : Prop := ∀ s : State, ∃ t, step s = .next t

/-- Reset sets every element of the block to the value of 70_reset_and_hazards.md R148; the parameters, the requesters'
own accesses and the rest of the schedule stay (log 7). -/
def Obligations.ResetEventSetsEveryElement : Prop :=
  ∀ (s : State) (rest : List Event), s.port.schedule = .reset :: rest →
    ∃ t, step s = .next t ∧ t.statusWord = 0 ∧ t.errFld = 0 ∧ t.errVal = 0 ∧ t.counter = 0 ∧ t.dlen = 0 ∧
      t.pktLen = 0 ∧ t.pldLen = 0 ∧
      t.f.tag = 0 ∧ t.f.rate = 0 ∧ t.f.samp = 0 ∧ t.f.chan = 0 ∧ t.f.fmt = 0 ∧ t.f.codec = 0 ∧ t.f.namelen = 0 ∧
      t.f.frame = 0 ∧ (∀ i : Fin 16, t.f.name[i] = 0x00) ∧ (∀ i : Fin 28, t.hdr[i] = 0x00) ∧
      t.g.tag = 0 ∧ t.g.rate = 0 ∧ t.g.samp = 0 ∧ t.g.chan = 0 ∧ t.g.fmt = 0 ∧ t.g.codec = 0 ∧ t.g.namelen = 0 ∧
      (∀ i : Fin 16, t.g.name[i] = 0x00) ∧
      (∀ k, t.dbufByte k = Config.unwrittenDbuf (s.epoch + 1) k) ∧
      t.params = s.params ∧ t.port = { s.port with schedule := rest }

/-- What each command does right after a reset: those of 70_reset_and_hazards.md R149, with NOP (60_exceptions.md R132) and
LOAD_DEFAULTS (42_generator.md R118). Under REG_VBAN ENCODE fails at V4; where SR_TABLE has no entry at index 0 it fails at
V3. The last clause says that a reset event in mid run gives such a state; that the counters `epoch` and `pktEpoch` may
stand anywhere is the model's (logs 4 and 5). -/
def Obligations.CommandsAfterReset : Prop :=
  (∀ (p : Params) (port : Port) (epoch pktEpoch : Nat), p.wf = true →
    let s : State := { State.reset with params := p, port := port, epoch := epoch, pktEpoch := pktEpoch }
    (s.hv = false ∧ s.pv = false ∧ s.hd = false ∧ s.gv = false ∧ s.pset = false) ∧
    (HasEntry p.reg.srTable 0 → exec .encode s = .next (s.reporting ⟨0x04, 4, 0⟩)) ∧
    (¬ HasEntry p.reg.srTable 0 → exec .encode s = .next (s.reporting ⟨0x04, 3, 0⟩)) ∧
    (p.reg = registryVban → HasEntry p.reg.srTable 0) ∧
    exec .build s = .next (s.reporting ⟨0x08, 2, 0⟩) ∧
    exec .pktCreate s = .next (s.reporting ⟨0x09, 9, 0⟩) ∧
    exec .pktAttach s = .next (s.reporting ⟨0x09, 10, 0⟩) ∧
    exec .genCreate s = .next (s.reporting ⟨0x09, 11, 0⟩) ∧
    exec .decode s = .next (s.reporting ⟨0x01, 1, 0⟩) ∧
    exec .pktDecode s = .next (s.reporting ⟨0x07, 8, 0⟩) ∧
    exec .nop s = .next s ∧
    (∀ t : BitVec 3,
      (t.toNat < 3 → ∃ u, exec (.loadDefaults t) s = .next u ∧ u.f.tag = t ∧ u.f.frame = 0 ∧
        u = { s with f := u.f, pset := true }) ∧
      (t.toNat = 3 → exec (.loadDefaults t) s = .next (s.reporting ⟨0x02, 2, 3⟩)) ∧
      (4 ≤ t.toNat → exec (.loadDefaults t) s = .next (s.reporting ⟨0x04, 2, t.toNat⟩)))) ∧
  ∀ (s : State) (rest : List Event), s.port.schedule = .reset :: rest →
    ∃ t, step s = .next t ∧
      t = { State.reset with params := s.params, port := t.port, epoch := t.epoch, pktEpoch := t.pktEpoch }

/-! ### The host port -/

/-- The fields of STATUS at their bits (10_state.md R19), read at offset 0x004. -/
def Obligations.StatusReadLayout : Prop :=
  ∀ s : State,
    (s.portRead (wordAddr 0x004)).toNat =
      s.err.toNat + s.hv.toNat * 2 ^ 8 + s.pv.toNat * 2 ^ 9 + s.hd.toNat * 2 ^ 10 + s.gv.toNat * 2 ^ 11 +
        s.pset.toNat * 2 ^ 12

/-- A read of a register returns its field and 0 in every other bit; CMD reads 0 (20_memory.md R49, R51). -/
def Obligations.RegisterReads : Prop :=
  ∀ s : State,
    let rd (off : Nat) : Nat := (s.portRead (wordAddr off)).toNat
    rd 0x000 = 0 ∧ rd 0x008 = s.errFld.toNat ∧ rd 0x00C = s.errVal.toNat ∧ rd 0x010 = s.counter.toNat ∧
    rd 0x014 = s.dlen.toNat ∧ rd 0x018 = s.pktLen.toNat ∧
    (s.pv = true → 28 ≤ s.pktLen.toNat → rd 0x01C = s.pktLen.toNat - 28) ∧ (s.pv = false → rd 0x01C = 0) ∧
    rd 0x020 = s.f.tag.toNat ∧ rd 0x024 = s.f.rate.toNat ∧ rd 0x028 = s.f.samp.toNat ∧ rd 0x02C = s.f.chan.toNat ∧
    rd 0x030 = s.f.fmt.toNat ∧ rd 0x034 = s.f.codec.toNat ∧ rd 0x038 = s.f.namelen.toNat ∧
    rd 0x03C = s.f.frame.toNat ∧
    rd 0x080 = s.g.tag.toNat ∧ rd 0x084 = s.g.rate.toNat ∧ rd 0x088 = s.g.samp.toNat ∧ rd 0x08C = s.g.chan.toNat ∧
    rd 0x090 = s.g.fmt.toNat ∧ rd 0x094 = s.g.codec.toNat ∧ rd 0x098 = s.g.namelen.toNat

/-- A write of a read/write register stores the bits inside its field, which a read gives back, and leaves every other
register (but STATUS.PSET, which a write of FPROTO sets) and every buffer; a write of a read-only register changes nothing
(20_memory.md R52, R53; 10_state.md R27). -/
def Obligations.RegisterWrites : Prop :=
  ∀ (s : State) (r : RegName) (d : Word),
    (∀ n, fieldWidth r = some n →
      ∃ t, portWrite (wordAddr (regOffset r)) d s = .next t ∧
        (t.portRead (wordAddr (regOffset r))).toNat = d.toNat % 2 ^ n ∧
        (∀ r' : RegName, r' ≠ r → r' ≠ .status → t.readReg r' = s.readReg r') ∧
        t = { s with f := t.f, dlen := t.dlen, pset := s.pset || decide (r = .fProto) } ∧ t.f.name = s.f.name) ∧
    (fieldWidth r = none → r ≠ .cmd → portWrite (wordAddr (regOffset r)) d s = .next s)

/-- A reserved word reads 0 and ignores writes, with no error (20_memory.md R49, R51, R52; 93_implementation_defined.md
I15). -/
def Obligations.ReservedWordsReadZeroAndIgnoreWrites : Prop :=
  ∀ (s : State) (wa : BitVec 12) (d : Word), s.params.wf = true →
    ReservedOffset s.params.dbufCap (4 * wa.toNat) → s.portRead wa = 0 ∧ portWrite wa d s = .next s

/-- The HDR window (20_memory.md R55), its lanes (R54), and HV cleared by every write (10_state.md R37). -/
def Obligations.HdrWindow : Prop :=
  ∀ (s : State) (w : Fin 7) (d : Word),
    (s.portRead (wordAddr (0x050 + 4 * w.val))).toNat =
      be32Nat s.hdr[4 * w.val] s.hdr[4 * w.val + 1] s.hdr[4 * w.val + 2] s.hdr[4 * w.val + 3] ∧
    ∃ t, portWrite (wordAddr (0x050 + 4 * w.val)) d s = .next t ∧ t = { s with hdr := t.hdr, hv := false } ∧
      t.portRead (wordAddr (0x050 + 4 * w.val)) = d ∧ ∀ k : Fin 28, k.val / 4 ≠ w.val → t.hdr[k] = s.hdr[k]

/-- The FNAME and GNAME windows (20_memory.md R56) with the lanes of R54: FNAME is read/write, GNAME read-only. -/
def Obligations.NameWindows : Prop :=
  ∀ (s : State) (w : Fin 4) (d : Word),
    (s.portRead (wordAddr (0x040 + 4 * w.val))).toNat =
      be32Nat s.f.name[4 * w.val] s.f.name[4 * w.val + 1] s.f.name[4 * w.val + 2] s.f.name[4 * w.val + 3] ∧
    (s.portRead (wordAddr (0x0A0 + 4 * w.val))).toNat =
      be32Nat s.g.name[4 * w.val] s.g.name[4 * w.val + 1] s.g.name[4 * w.val + 2] s.g.name[4 * w.val + 3] ∧
    portWrite (wordAddr (0x0A0 + 4 * w.val)) d s = .next s ∧
    ∃ t, portWrite (wordAddr (0x040 + 4 * w.val)) d s = .next t ∧
      t = { s with f := { s.f with name := t.f.name } } ∧
      t.portRead (wordAddr (0x040 + 4 * w.val)) = d ∧ ∀ k : Fin 16, k.val / 4 ≠ w.val → t.f.name[k] = s.f.name[k]

/-- The PKT window (20_memory.md R57): PKT below PKTLEN, 0x00 past it, and read-only. -/
def Obligations.PktWindow : Prop :=
  ∀ (s : State) (w : Fin 359) (d : Word),
    let shown (k : Nat) : Byte := if k < s.pktLen.toNat then s.pktByte k else 0x00
    (s.portRead (wordAddr (0x800 + 4 * w.val))).toNat =
      be32Nat (shown (4 * w.val)) (shown (4 * w.val + 1)) (shown (4 * w.val + 2)) (shown (4 * w.val + 3)) ∧
    portWrite (wordAddr (0x800 + 4 * w.val)) d s = .next s

/-- The PLD window (20_memory.md R58): the payload of the envelope, 0x00 past it, read-only; its word `w` is PKT word
`7 + w` in the states a run reaches (log 9). -/
def Obligations.PldWindow : Prop :=
  ∀ (s : State) (w : Fin 352) (d : Word),
    let shown (j : Nat) : Byte := if s.pv = true ∧ 28 + j < s.pktLen.toNat then s.pktByte (28 + j) else 0x00
    (s.portRead (wordAddr (0x1000 + 4 * w.val))).toNat =
      be32Nat (shown (4 * w.val)) (shown (4 * w.val + 1)) (shown (4 * w.val + 2)) (shown (4 * w.val + 3)) ∧
    portWrite (wordAddr (0x1000 + 4 * w.val)) d s = .next s ∧
    (BlockInv s → s.portRead (wordAddr (0x1000 + 4 * w.val)) = s.portRead (wordAddr (0x800 + 4 * (7 + w.val))))

/-- The DBUF window (20_memory.md R59), with the lanes of R54: a write stores four bytes, which a read gives back, and no
other byte changes. -/
def Obligations.DbufWindow : Prop :=
  ∀ (s : State) (w : Nat) (d : Word), s.params.wf = true → w < s.params.dbufCap / 4 →
    (s.portRead (wordAddr (0x2000 + 4 * w))).toNat =
      be32Nat (s.dbufByte (4 * w)) (s.dbufByte (4 * w + 1)) (s.dbufByte (4 * w + 2)) (s.dbufByte (4 * w + 3)) ∧
    ∃ t, portWrite (wordAddr (0x2000 + 4 * w)) d s = .next t ∧ t = { s with dbuf := t.dbuf } ∧
      t.portRead (wordAddr (0x2000 + 4 * w)) = d ∧ ∀ k, k / 4 ≠ w → t.dbufByte k = s.dbufByte k

/-- The assembler's targets and the address map agree: registers, window words and byte offsets (30_encoding.md R92;
20_memory.md R48, R49). -/
def Obligations.TargetsReachTheirPlaces : Prop :=
  ∀ cap : Nat, cap % 4 = 0 → cap ≤ 8192 →
    (∀ r : RegName, locate cap (targetAddr (.reg r)) = .reg r) ∧
    (∀ (b : BufName) (w : Nat), (Target.buf b w).wf cap = true → locate cap (targetAddr (.buf b w)) = .buf b w) ∧
    (∀ o : Nat, (Target.offset o).wf cap = true →
      targetAddr (.offset o) = wordAddr o ∧ 4 * (targetAddr (.offset o)).toNat = o)

/-- The pseudo-instructions' accesses, performed with no other between them, put their bytes and values in place
(30_encoding.md R93): LDNAME, LDFIELDS, LDHDR and LDBUF. -/
def Obligations.PseudoInstructionsPlaceTheirData : Prop :=
  ∀ s : State, s.params.wf = true →
    (∀ b : List Byte, ∃ t, runAccesses (assemble (.ldName b)) s = .next t ∧
      (∀ i : Fin 16, t.f.name[i] = (b[i.val]?).getD 0x00) ∧ t.f.namelen.toNat = min b.length 255 ∧
      t = { s with f := { s.f with name := t.f.name, namelen := t.f.namelen } }) ∧
    (∀ t r sa c f k fr : Word, ∃ u, runAccesses (assemble (.ldFields t r sa c f k fr)) s = .next u ∧
      u.f.tag.toNat = t.toNat % 2 ^ 3 ∧ u.f.rate.toNat = r.toNat % 2 ^ 5 ∧ u.f.samp.toNat = sa.toNat % 2 ^ 16 ∧
      u.f.chan.toNat = c.toNat % 2 ^ 16 ∧ u.f.fmt.toNat = f.toNat % 2 ^ 5 ∧ u.f.codec.toNat = k.toNat % 2 ^ 4 ∧
      u.f.frame = fr ∧ u = { s with f := { u.f with name := s.f.name, namelen := s.f.namelen }, pset := true }) ∧
    (∀ b : Vector Byte 28, runAccesses (assemble (.ldHdr b)) s = .next { s with hdr := b, hv := false }) ∧
    (∀ b : List Byte, b.length ≤ s.params.dbufCap → ∃ t, runAccesses (assemble (.ldBuf b)) s = .next t ∧
      (∀ k, k < (b.length + 3) / 4 * 4 → t.dbufByte k = (b[k]?).getD 0x00) ∧
      (∀ k, (b.length + 3) / 4 * 4 ≤ k → t.dbufByte k = s.dbufByte k) ∧ t.dlen.toNat = b.length ∧
      t = { s with dbuf := t.dbuf, dlen := t.dlen })

/-! ### NOP -/

/-- 60_exceptions.md R132: NOP clears the error registers and nothing else. -/
def Obligations.NopClearsTheErrorRegisters : Prop :=
  ∀ s : State, exec .nop s = .next (s.reporting ⟨0x00, 0, 0⟩)

/-! ### The header codec -/

/-- ENCODE, 40_header_codec.md R100 with R94 and R96: field registers that pass every gate put their header in HDR and set
HV; else ENCODE reports the first gate that fails, with the raw value of 60_exceptions.md R131, and changes nothing else. -/
def Obligations.EncodeCommand : Prop :=
  ∀ s : State,
    (Encodable s.params.reg s.f.toHeaderConfig →
      ∃ t, exec .encode s = .next t ∧ HeaderOf s.f t.hdr ∧
        t = { s with hdr := t.hdr, hv := true, err := 0x00, errFld := 0, errVal := 0 }) ∧
    (∀ r : ErrorReport, EncodeGate s.params.reg s.f.toHeaderConfig r → exec .encode s = .next (s.reporting r))

/-- DECODE, 40_header_codec.md R101 with R98 and R99: a header that passes every gate puts its fields in the field registers
and sets HV and PSET, and HDR is not written; else DECODE reports the first gate that fails, with the masked raw value of
60_exceptions.md R131, and changes nothing else. So a wrong magic is BadMagic whatever the other bytes (R107). -/
def Obligations.DecodeCommand : Prop :=
  ∀ s : State,
    (Decodable28 s.params.reg s.hdr →
      ∃ t, exec .decode s = .next t ∧ FieldsOf s.hdr t.f ∧
        t = { s with f := t.f, pset := true, hv := true, err := 0x00, errFld := 0, errVal := 0 }) ∧
    (∀ r : ErrorReport, DecodeGate s.params.reg s.hdr r → exec .decode s = .next (s.reporting r))

/-- 40_header_codec.md R94 and R98, with 60_exceptions.md R134: ENCODE succeeds exactly when every gate passes, and answers a
report exactly when it is the first failing gate's; the same of DECODE. Of every tuple and of every header exactly one of
the two holds, with one report. The bounds on a report are those of the error registers, which hold no greater number. -/
def Obligations.GatesAreExhaustiveAndExclusive : Prop :=
  ∀ s : State,
    ((∃ t, exec .encode s = .next t ∧ t.err = 0x00) ↔ Encodable s.params.reg s.f.toHeaderConfig) ∧
    ((∃ t, exec .decode s = .next t ∧ t.err = 0x00) ↔ Decodable28 s.params.reg s.hdr) ∧
    (∀ r : ErrorReport, r.code ≠ 0 → r.code < 2 ^ 8 → r.fld < 2 ^ 4 → r.raw < 2 ^ 32 →
      (exec .encode s = .next (s.reporting r) ↔ EncodeGate s.params.reg s.f.toHeaderConfig r) ∧
      (exec .decode s = .next (s.reporting r) ↔ DecodeGate s.params.reg s.hdr r)) ∧
    ((¬ Encodable s.params.reg s.f.toHeaderConfig ↔ ∃ r, EncodeGate s.params.reg s.f.toHeaderConfig r) ∧
      ∀ r r', EncodeGate s.params.reg s.f.toHeaderConfig r → EncodeGate s.params.reg s.f.toHeaderConfig r' → r = r') ∧
    ((¬ Decodable28 s.params.reg s.hdr ↔ ∃ r, DecodeGate s.params.reg s.hdr r) ∧
      ∀ r r', DecodeGate s.params.reg s.hdr r → DecodeGate s.params.reg s.hdr r' → r = r')

/-- 40_header_codec.md R102: the counts 1 to 256 and the bytes 0 to 255 are exact inverses. -/
def Obligations.SampleAndChannelSymmetry : Prop :=
  ∀ (reg : Registry) (v : Nat), 1 ≤ v → v ≤ 256 →
    (∀ f : Fields, (f.samp.toNat = v → (pack f)[5].toNat = v - 1) ∧ (f.chan.toNat = v → (pack f)[6].toNat = v - 1)) ∧
    (∀ (h : Vector Byte 28) (f : Fields), unpack reg h = .ok f →
      (h[5].toNat = v - 1 → f.samp.toNat = v) ∧ (h[6].toNat = v - 1 → f.chan.toNat = v))

/-- 40_header_codec.md R103: the byte-7 overlap law, and what it does to VBCA, USER, PCM and VBCV under REG_VBAN. -/
def Obligations.Byte7OverlapLaw : Prop :=
  ∀ f : Fields,
    (pack f)[7].toNat % 32 = f.fmt.toNat ||| f.codec.toNat % 2 * 16 ∧
    (pack f)[7].toNat / 16 = f.codec.toNat ||| f.fmt.toNat / 16 ∧
    (((pack f)[7].toNat % 32 = f.fmt.toNat ∧ (pack f)[7].toNat / 16 = f.codec.toNat) ↔
      f.codec.toNat % 2 = f.fmt.toNat / 16) ∧
    (Encodable registryVban f.toHeaderConfig →
      f.fmt.toNat < 16 ∧
      (f.codec.toNat = 0x1 ∨ f.codec.toNat = 0xF →
        unpack registryVban (pack f) =
          .error ⟨.invalidPacketAttribute, .format, BitVec.ofNat 32 (f.fmt.toNat + 16)⟩) ∧
      (f.codec.toNat = 0x0 ∨ f.codec.toNat = 0x2 →
        ∃ g, unpack registryVban (pack f) = .ok g ∧ g.fmt = f.fmt ∧ g.codec = f.codec))

/-- 40_header_codec.md R104: the round trip of the codec, for every registry, where the two fields of byte 7 agree at their
shared bit. -/
def Obligations.UnpackOfPackIsTheTuple : Prop :=
  ∀ (reg : Registry) (f : Fields), Encodable reg f.toHeaderConfig → f.codec.toNat % 2 = f.fmt.toNat / 16 →
    ∃ g, unpack reg (pack f) = .ok g ∧
      g = { f with name := g.name, namelen := g.namelen } ∧
      (∀ i : Fin 16, g.name[i] = if i.val < min f.namelen.toNat 16 then f.name[i] else 0x00) ∧
      g.namelen.toNat = nameDecLen (nameEnc f.name f.namelen)

/-- 40_header_codec.md R105: the length that comes back is one more than the last index below min(len, 16) whose byte is
not 0x00, and it is min(len, 16) exactly when that is 0 or the last byte is not 0x00. -/
def Obligations.NameRoundTrip : Prop :=
  ∀ (name : Vector Byte 16) (len : BitVec 8) (l l' : Nat),
    l = min len.toNat 16 → l' = nameDecLen (nameEnc name len) →
    l' ≤ l ∧
    (∀ i : Fin 16, i.val < l → name[i] ≠ 0x00 → i.val + 1 ≤ l') ∧
    (l' ≠ 0 → ∃ i : Fin 16, i.val < l ∧ name[i] ≠ 0x00 ∧ l' = i.val + 1) ∧
    (l' = l ↔ l = 0 ∨ ∃ i : Fin 16, i.val + 1 = l ∧ name[i] ≠ 0x00)

/-! ### Every command -/

/-- 00_scope.md R12: after a `raise` only the error registers differ. -/
def Obligations.FailedCommandChangesOnlyErrorRegisters : Prop :=
  ∀ (i : Instr) (s t : State), exec i s = .next t → t.err ≠ 0x00 →
    t = { s with err := t.err, errFld := t.errFld, errVal := t.errVal }

/-- 60_exceptions.md R139: the same command on the same state raises the same error again. -/
def Obligations.FailedCommandFailsAgain : Prop :=
  ∀ (i : Instr) (s t : State), exec i s = .next t → t.err ≠ 0x00 → exec i t = .next t

/-- 60_exceptions.md R130 and the reserved values of R127 and R128: what the error registers hold after any command. -/
def Obligations.ErrorRegistersAfterEveryCommand : Prop :=
  ∀ (i : Instr) (s : State), ∃ t, exec i s = .next t ∧ t.err.toNat ≤ 0x0A ∧ t.errFld.toNat ≤ 12 ∧
    (t.err = 0x00 → t.errFld = 0 ∧ t.errVal = 0) ∧ (t.err ≠ 0x00 → t.errFld ≠ 0)

/-- 10_state.md R23, R43, R45, R46 and the "written by" column of R17: no command writes DLEN, DBUF, the parameters or
anything outside the block. -/
def Obligations.CommandsLeaveTheHostsInputs : Prop :=
  ∀ (i : Instr) (s t : State), exec i s = .next t →
    t.dlen = s.dlen ∧ (∀ k, t.dbufByte k = s.dbufByte k) ∧ t.dbuf = s.dbuf ∧ t.params = s.params ∧ t.epoch = s.epoch ∧
      t.port = s.port

/-! ### The packet framer -/

/-- PKT_CREATE, 41_packet_framer.md R108: the envelope of the header, or NotReady. What PKT holds past PKTLEN is unspecified
after any command, and reads as 0x00 (10_state.md R40), here and in the two commands below. -/
def Obligations.PktCreateCommand : Prop :=
  ∀ s : State,
    (s.hv = true →
      ∃ t, exec .pktCreate s = .next t ∧ (∀ k : Fin 28, t.pktByte k.val = s.hdr[k]) ∧
        (∀ k, 28 ≤ k → t.bytesView k = 0x00) ∧
        t = { s with pkt := t.pkt, pktEpoch := t.pktEpoch, pktLen := 28, pv := true, hd := false,
                     err := 0x00, errFld := 0, errVal := 0 }) ∧
    (s.hv = false → exec .pktCreate s = .next (s.reporting ⟨0x09, 9, 0⟩))

/-- PKT_ATTACH, 41_packet_framer.md R109: at most 1408 bytes of DBUF appended to an open envelope, or the first of the gates
A1, A2, A3 that fails. -/
def Obligations.PktAttachCommand : Prop :=
  ∀ s : State,
    (s.pv = true → s.hd = false → s.dlen.toNat ≤ 1408 →
      ∃ t, exec .pktAttach s = .next t ∧
        (∀ j, j < s.dlen.toNat → t.pktByte (28 + j) = s.dbufByte j) ∧
        (∀ k, k < 28 → t.pktByte k = s.pktByte k) ∧
        t.pktLen.toNat = 28 + s.dlen.toNat ∧ (∀ k, 28 + s.dlen.toNat ≤ k → t.bytesView k = 0x00) ∧
        t = { s with pkt := t.pkt, pktEpoch := t.pktEpoch, pktLen := t.pktLen, hd := true,
                     err := 0x00, errFld := 0, errVal := 0 }) ∧
    (s.pv = false → exec .pktAttach s = .next (s.reporting ⟨0x09, 10, 0⟩)) ∧
    (s.pv = true → s.hd = true → exec .pktAttach s = .next (s.reporting ⟨0x05, 10, s.pktLen.toNat⟩)) ∧
    (s.pv = true → s.hd = false → 1408 < s.dlen.toNat →
      exec .pktAttach s = .next (s.reporting ⟨0x06, 8, s.dlen.toNat⟩))

/-- PKT_DECODE, 41_packet_framer.md R110: a packet of 28 to 1436 bytes whose header passes every gate becomes the header, the
fields and the envelope; else the first gate that fails of P1, P2 and those of Unpack on DBUF[0..27]. -/
def Obligations.PktDecodeCommand : Prop :=
  ∀ (s : State) (h : Vector Byte 28), (∀ k : Fin 28, h[k] = s.dbufByte k.val) →
    (28 ≤ s.dlen.toNat → s.dlen.toNat ≤ 1436 → Decodable28 s.params.reg h →
      ∃ t, exec .pktDecode s = .next t ∧ FieldsOf h t.f ∧
        (∀ k, k < s.dlen.toNat → t.pktByte k = s.dbufByte k) ∧
        t.pktLen.toNat = s.dlen.toNat ∧ (∀ k, s.dlen.toNat ≤ k → t.bytesView k = 0x00) ∧
        t = { s with hdr := h, f := t.f, pkt := t.pkt, pktEpoch := t.pktEpoch, pktLen := t.pktLen,
                     hv := true, pset := true, pv := true, hd := true, err := 0x00, errFld := 0, errVal := 0 }) ∧
    (s.dlen.toNat < 28 → exec .pktDecode s = .next (s.reporting ⟨0x07, 8, s.dlen.toNat⟩)) ∧
    (1436 < s.dlen.toNat → exec .pktDecode s = .next (s.reporting ⟨0x06, 8, s.dlen.toNat⟩)) ∧
    (28 ≤ s.dlen.toNat → s.dlen.toNat ≤ 1436 → ∀ r, DecodeGate s.params.reg h r →
      exec .pktDecode s = .next (s.reporting r))

/-- 41_packet_framer.md R114: after a successful PKT_DECODE the views give the packet, its payload and its header back. -/
def Obligations.PktDecodeReproducesItsInput : Prop :=
  ∀ s t : State, exec .pktDecode s = .next t → t.err = 0x00 →
    t.pktLen.toNat = s.dlen.toNat ∧ t.pldLen.toNat = s.dlen.toNat - 28 ∧
    (∀ k, k < s.dlen.toNat → t.bytesView k = s.dbufByte k) ∧
    (∀ j, 28 + j < s.dlen.toNat → t.payloadView j = s.dbufByte (28 + j)) ∧
    (∀ k : Fin 28, t.hdr[k] = s.dbufByte k.val)

/-- 41_packet_framer.md R115: a framed packet copied into DBUF decodes to the same header and payload, or raises the error
that Unpack raises on its header; for a header that Pack made, that is the byte-7 overlap of 40_header_codec.md R103. `a'`
is the state after the PKT_CREATE with whatever the host wrote to DBUF and DLEN, `c` any state whose DBUF and DLEN hold the
packet. -/
def Obligations.FrameThenDeframe : Prop :=
  ∀ s a a' b c : State, s.hv = true → exec .pktCreate s = .next a →
    a' = { a with dlen := a'.dlen, dbuf := a'.dbuf } → exec .pktAttach a' = .next b → b.err = 0x00 →
    c.params = s.params → c.dlen.toNat = b.pktLen.toNat →
    (∀ k, k < b.pktLen.toNat → c.dbufByte k = b.bytesView k) →
    ((∃ d, exec .pktDecode c = .next d ∧ d.err = 0x00 ∧ d.hdr = s.hdr ∧ d.pldLen.toNat = a'.dlen.toNat ∧
        ∀ j, j < a'.dlen.toNat → d.payloadView j = a'.dbufByte j) ∨
      (∃ r, DecodeGate s.params.reg s.hdr r ∧ exec .pktDecode c = .next (c.reporting r))) ∧
    (∀ (f : Fields) (r : ErrorReport), Encodable s.params.reg f.toHeaderConfig → HeaderOf f s.hdr →
      DecodeGate s.params.reg s.hdr r → f.codec.toNat % 2 ≠ f.fmt.toNat / 16)

/-- 41_packet_framer.md R113: in every state a run reaches the packet has at most 1436 bytes and the payload at most 1408;
on an open envelope 1408 bytes attach, 1409 do not, and a second attach raises AlreadyHasData. -/
def Obligations.SizeCeiling : Prop :=
  ∀ s : State, Reached s →
    s.pktLen.toNat ≤ 1436 ∧ s.pldLen.toNat ≤ 1408 ∧
    (s.pv = true → s.hd = false →
      (∃ t, exec .pktAttach { s with dlen := 1408 } = .next t ∧ t.err = 0x00 ∧ t.pktLen.toNat = 1436) ∧
      (∃ t, exec .pktAttach { s with dlen := 1409 } = .next t ∧ t.err = 0x06) ∧
      (∀ t u : State, exec .pktAttach s = .next t → t.err = 0x00 → exec .pktAttach t = .next u → u.err = 0x05))

/-- 41_packet_framer.md R116: the visible packet changes only by a successful PKT_CREATE, PKT_ATTACH or PKT_DECODE or by a
reset. -/
def Obligations.EnvelopeImmutability : Prop :=
  ∀ s t : State, step s = .next t →
    s.nextIsReset = false →
    (t.err = 0x00 → s.nextCommand ≠ some .pktCreate ∧ s.nextCommand ≠ some .pktAttach ∧
      s.nextCommand ≠ some .pktDecode) →
    t.pktLen = s.pktLen ∧ t.pv = s.pv ∧ ∀ k, t.bytesView k = s.bytesView k

/-! ### The generator -/

/-- LOAD_DEFAULTS, 42_generator.md R118 with the table of R117: the defaults of Audio, Serial and Text in the field
registers, FFRAME untouched, or the gates L1 and L2. -/
def Obligations.LoadDefaultsCommand : Prop :=
  ∀ (s : State) (t : BitVec 3),
    (t.toNat < 3 → ∃ u, exec (.loadDefaults t) s = .next u ∧
      u = { s with f := { u.f with frame := s.f.frame }, pset := true, err := 0x00, errFld := 0, errVal := 0 } ∧
      u.f.tag = t ∧ u.f.codec = 0x0 ∧
      (t.toNat = 0 → u.f.rate = s.params.reg.defSr ∧ u.f.samp.toNat = 256 ∧ u.f.chan.toNat = 2 ∧
        u.f.fmt = s.params.reg.defAfmt ∧ u.f.namelen.toNat = 7 ∧
        u.f.name = #v[0x53, 0x74, 0x72, 0x65, 0x61, 0x6D, 0x31, 0, 0, 0, 0, 0, 0, 0, 0, 0]) ∧
      (t.toNat = 1 → u.f.rate = s.params.reg.defBps ∧ u.f.samp.toNat = 1 ∧ u.f.chan.toNat = 1 ∧
        u.f.fmt = s.params.reg.defSfmt ∧ u.f.namelen.toNat = 5 ∧
        u.f.name = #v[0x4D, 0x49, 0x44, 0x49, 0x31, 0, 0, 0, 0, 0, 0, 0, 0, 0, 0, 0]) ∧
      (t.toNat = 2 → u.f.rate = s.params.reg.defBps ∧ u.f.samp.toNat = 1 ∧ u.f.chan.toNat = 1 ∧
        u.f.fmt = s.params.reg.defTfmt ∧ u.f.namelen.toNat = 8 ∧
        u.f.name = #v[0x43, 0x6F, 0x6D, 0x6D, 0x61, 0x6E, 0x64, 0x31, 0, 0, 0, 0, 0, 0, 0, 0])) ∧
    (4 ≤ t.toNat → exec (.loadDefaults t) s = .next (s.reporting ⟨0x04, 2, t.toNat⟩)) ∧
    (t.toNat = 3 → exec (.loadDefaults t) s = .next (s.reporting ⟨0x02, 2, 3⟩))

/-- The defaults of every protocol pass Validate, for every registry that meets R8: LOAD_DEFAULTS, then ENCODE or BUILD,
succeeds (00_scope.md R8: "Each required entry is needed by a default"). -/
def Obligations.DefaultsAreEncodable : Prop :=
  ∀ (s u : State) (t : BitVec 3), s.params.wf = true → t.toNat < 3 → exec (.loadDefaults t) s = .next u →
    Encodable u.params.reg u.f.toHeaderConfig ∧
    (∃ v, exec .encode u = .next v ∧ v.err = 0x00) ∧ (∃ v, exec .build u = .next v ∧ v.err = 0x00 ∧ v.g = u.f.toHeaderConfig)

/-- BUILD, 42_generator.md R119: the field registers as they stand (R124) become the generator, with COUNTER 0, or the first
gate that fails of B1 and those of Validate. -/
def Obligations.BuildCommand : Prop :=
  ∀ s : State,
    (s.pset = true → Encodable s.params.reg s.f.toHeaderConfig →
      exec .build s =
        .next { s with g := s.f.toHeaderConfig, counter := 0, gv := true, err := 0x00, errFld := 0, errVal := 0 }) ∧
    (s.pset = false → exec .build s = .next (s.reporting ⟨0x08, 2, 0⟩)) ∧
    (s.pset = true → ∀ r, EncodeGate s.params.reg s.f.toHeaderConfig r → exec .build s = .next (s.reporting r))

/-- GEN_CREATE, 42_generator.md R120: the header of the G registers with COUNTER as its frame, and COUNTER one more modulo
2^32, or NotReady. That the G registers pass every gate while GV = 1 is the invariant's (10_state.md R44 item 5). -/
def Obligations.GenCreateCommand : Prop :=
  ∀ s : State,
    (s.gv = true →
      ∃ t, exec .genCreate s = .next t ∧
        (Encodable s.params.reg s.g → HeaderOf { toHeaderConfig := s.g, frame := s.counter } t.hdr) ∧
        t.counter.toNat = (s.counter.toNat + 1) % 2 ^ 32 ∧
        t = { s with hdr := t.hdr, hv := true, counter := t.counter, err := 0x00, errFld := 0, errVal := 0 }) ∧
    (s.gv = false → exec .genCreate s = .next (s.reporting ⟨0x09, 11, 0⟩))

/-- 42_generator.md R122: after a successful BUILD, the GEN_CREATEs of the next steps write the frames 0, 1, 2, … modulo
2^32, and COUNTER holds their number. -/
def Obligations.CounterSequence : Prop :=
  ∀ (s t u : State) (k : Nat), step s = .next t → s.nextCommand = some .build → t.err = 0x00 → keepsGenerator k t →
    Host.Core.run Sys2Proof.core k t = .next u →
    framesWritten k t = (List.range (framesWritten k t).length).map (fun i => i % 2 ^ 32) ∧
    u.counter.toNat = (framesWritten k t).length % 2 ^ 32

/-- 42_generator.md R123: whatever requesters issue them and however they interleave with other accesses, the GEN_CREATEs
between two BUILDs write pairwise distinct frames, the numbers from COUNTER on, modulo 2^32. -/
def Obligations.ConcurrentProducersNeverShareAFrame : Prop :=
  ∀ (s : State) (k : Nat), s.gv = true → keepsGenerator k s →
    (framesWritten k s).Perm
      ((List.range (framesWritten k s).length).map fun i => (s.counter.toNat + i) % 2 ^ 32) ∧
    ((framesWritten k s).length ≤ 2 ^ 32 → (framesWritten k s).Nodup)

/-- 42_generator.md R126: GV stays 1 until reset; only BUILD or reset changes the G registers; only BUILD, GEN_CREATE or
reset changes COUNTER. -/
def Obligations.GeneratorLifetime : Prop :=
  ∀ s t : State, step s = .next t → s.nextIsReset = false →
    (s.gv = true → t.gv = true) ∧ (s.nextCommand ≠ some .build → t.g = s.g) ∧
    (s.nextCommand ≠ some .build → s.nextCommand ≠ some .genCreate → t.counter = s.counter)

/-- 42_generator.md R125 and 40_header_codec.md R107: in no state a run reaches is a Service generator built or a Service
header valid. -/
def Obligations.ServiceIsNeverAccepted : Prop :=
  ∀ s : State, Reached s → ¬ (s.gv = true ∧ s.g.tag = 3) ∧ ¬ (s.hv = true ∧ s.hdr[4].toNat / 32 = 3)

/-! ### The invariant -/

/-- The invariant of 10_state.md R44 holds at reset, for every choice of the parameters and of the port. -/
def Obligations.InvariantAtReset : Prop :=
  ∀ (p : Params) (port : Port), p.wf = true → 1 ≤ port.requesters.length →
    BlockInv { State.reset with params := p, port := port }

/-- 10_state.md R44: every step keeps the invariant. -/
def Obligations.StepKeepsTheInvariant : Prop := ∀ s t : State, BlockInv s → step s = .next t → BlockInv t

/-- 10_state.md R45 and R46: no step writes the parameters REG, DBUF_CAP and N_REQ. -/
def Obligations.ParametersAreConstant : Prop :=
  ∀ s t : State, step s = .next t →
    t.params = s.params ∧ t.port.requesters.length = s.port.requesters.length
end

