-- ==== Sys2Proof/Laws/HeaderCodec.lean ====
section
/-! SUPPORT. The header codec in the numeric terms of Safety.lean: one lemma for each function that says when it passes and
what it gives, which later proofs cite instead of unfolding it. -/

namespace Sys2Proof.Machine

/-! ### The registry -/

theorem tableEntry_isSome {α : Type} (t : Table α) (i : BitVec 5) :
    (tableEntry t i).isSome = true ↔ HasEntry t i.toNat := by
  have h : t[i.toNat]? = some (tableEntry t i) := by
    simp [tableEntry, Vector.getElem?_eq_getElem i.isLt]
  simp [HasEntry, h, Option.isSome_iff_exists]

theorem tag_cases (t : BitVec 3) : t = 0 ∨ t = 1 ∨ t = 2 ∨ t = 3 ∨ 4 ≤ t.toNat := by
  revert t; decide

theorem rateResolves_iff (reg : Registry) (t : BitVec 3) (i : BitVec 5) :
    rateResolves reg t i = true ↔ RateKnown reg t.toNat i.toNat := by
  rcases tag_cases t with rfl | rfl | rfl | rfl | h
  · simp [rateResolves, RateKnown, tableEntry_isSome]
  · simp [rateResolves, RateKnown, tableEntry_isSome]
  · simp [rateResolves, RateKnown, tableEntry_isSome]
  · simp [rateResolves, RateKnown]
  · have h0 : t ≠ 0 := by rintro rfl; simp at h
    have h1 : t ≠ 1 := by rintro rfl; simp at h
    have h2 : t ≠ 2 := by rintro rfl; simp at h
    simp only [rateResolves, h0, h1, h2, if_false, RateKnown, Bool.false_eq_true, false_iff]
    omega

theorem fmtResolves_iff (reg : Registry) (t : BitVec 3) (i : BitVec 5) :
    fmtResolves reg t i = true ↔ FmtKnown reg t.toNat i.toNat := by
  rcases tag_cases t with rfl | rfl | rfl | rfl | h
  · simp [fmtResolves, FmtKnown, tableEntry_isSome]
  · simp [fmtResolves, FmtKnown, tableEntry_isSome]
  · simp [fmtResolves, FmtKnown, tableEntry_isSome]
  · simp [fmtResolves, FmtKnown]
  · have h0 : t ≠ 0 := by rintro rfl; simp at h
    have h1 : t ≠ 1 := by rintro rfl; simp at h
    have h2 : t ≠ 2 := by rintro rfl; simp at h
    simp only [fmtResolves, h0, h1, h2, if_false, FmtKnown, Bool.false_eq_true, false_iff]
    omega

theorem codecAssigned_iff (k : BitVec 4) : codecAssigned k = true ↔ CodecKnown k.toNat := by
  simp only [codecAssigned, CodecKnown, Bool.or_eq_true, decide_eq_true_eq, ← BitVec.toNat_inj]
  simp [or_assoc]

/-! ### Validate -/

/-- The report of an error (60_exceptions.md R129). -/
def reportOf (e : Failure) : ErrorReport := ⟨(errCode e.err).toNat, (fldCode e.fld).toNat, e.raw.toNat⟩

theorem raise_eq_reporting (s : State) (e : Failure) : s.raise e = s.reporting (reportOf e) := by
  simp [State.raise, State.reporting, reportOf]

theorem tag_eq_three (t : BitVec 3) : t = 3 ↔ t.toNat = 3 := by simp [← BitVec.toNat_inj]

theorem toNat_setWidth_32 {n : Nat} (v : BitVec n) (h : n ≤ 32) : (v.setWidth 32).toNat = v.toNat := by
  have hv := v.isLt
  have := Nat.pow_le_pow_right (show 1 ≤ 2 by omega) h
  simp only [BitVec.toNat_setWidth]
  exact Nat.mod_eq_of_lt (by omega)

/-- A gate's error reports the numbers of its codes and its raw value. -/
theorem report_of_codes (P : ErrorReport → Prop) {e : Err} {f : Fld} {raw : Word} {c k n : Nat}
    (hc : (errCode e).toNat = c) (hk : (fldCode f).toNat = k) (hn : raw.toNat = n) (h : P ⟨c, k, n⟩) :
    P (reportOf ⟨e, f, raw⟩) := by
  subst hc hk hn; exact h

/-- All that `Validate` can answer: it passes exactly the encodable tuples, and on any other reports the first failing gate
(40_header_codec.md R94). -/
theorem validate_spec (reg : Registry) (c : HeaderConfig) :
    (validate reg c = .ok () ∧ Encodable reg c) ∨
      ∃ e, validate reg c = .error e ∧ EncodeGate reg c (reportOf e) ∧ ¬ Encodable reg c := by
  have hr := rateResolves_iff reg c.tag c.rate
  have hf := fmtResolves_iff reg c.tag c.fmt
  have hk := codecAssigned_iff c.codec
  by_cases h1 : 4 ≤ c.tag.toNat
  · refine .inr ⟨⟨.invalidConfiguration, .protocol, c.tag.setWidth 32⟩, by simp [validate, h1], ?_, fun h => ?_⟩
    · exact report_of_codes (EncodeGate reg c) rfl rfl (toNat_setWidth_32 _ (by omega)) (.v1 h1)
    · have := h.tag; omega
  by_cases h2 : c.tag.toNat = 3
  · refine .inr ⟨⟨.unsupportedProtocol, .protocol, c.tag.setWidth 32⟩, ?_, ?_, fun h => ?_⟩
    · simp [validate, (tag_eq_three c.tag).2 h2]
    · exact report_of_codes (EncodeGate reg c) rfl rfl ((toNat_setWidth_32 _ (by omega)).trans h2) (.v2 h2)
    · have := h.tag; omega
  have h2' : c.tag ≠ 3 := fun e => h2 ((tag_eq_three c.tag).1 e)
  have ht : c.tag.toNat < 3 := by omega
  by_cases h3 : RateKnown reg c.tag.toNat c.rate.toNat
  swap
  · refine .inr ⟨⟨.invalidConfiguration, .rate, c.rate.setWidth 32⟩, ?_, ?_, fun h => h3 h.rate⟩
    · simp only [validate, h1, h2', Bool.eq_false_iff.2 (mt hr.1 h3), if_false, if_true, Bool.not_false]
    · exact report_of_codes (EncodeGate reg c) rfl rfl (toNat_setWidth_32 _ (by omega)) (.v3 ht h3)
  by_cases h4 : CountLegal c.samp.toNat
  swap
  · refine .inr ⟨⟨.invalidConfiguration, .samples, c.samp.setWidth 32⟩, ?_, ?_, fun h => h4 h.samp⟩
    · have : c.samp.toNat < 1 ∨ 256 < c.samp.toNat := by unfold CountLegal at h4; omega
      simp only [validate, h1, h2', hr.2 h3, this, if_false, if_true, Bool.not_true, Bool.false_eq_true]
    · exact report_of_codes (EncodeGate reg c) rfl rfl (toNat_setWidth_32 _ (by omega)) (.v4 ht h3 h4)
  have h4' : ¬ (c.samp.toNat < 1 ∨ 256 < c.samp.toNat) := by unfold CountLegal at h4; omega
  by_cases h5 : CountLegal c.chan.toNat
  swap
  · refine .inr ⟨⟨.invalidConfiguration, .channels, c.chan.setWidth 32⟩, ?_, ?_, fun h => h5 h.chan⟩
    · have : c.chan.toNat < 1 ∨ 256 < c.chan.toNat := by unfold CountLegal at h5; omega
      simp only [validate, h1, h2', hr.2 h3, h4', this, if_false, if_true, Bool.not_true, Bool.false_eq_true]
    · exact report_of_codes (EncodeGate reg c) rfl rfl (toNat_setWidth_32 _ (by omega)) (.v5 ht h3 h4 h5)
  have h5' : ¬ (c.chan.toNat < 1 ∨ 256 < c.chan.toNat) := by unfold CountLegal at h5; omega
  by_cases h6 : FmtKnown reg c.tag.toNat c.fmt.toNat
  swap
  · refine .inr ⟨⟨.invalidConfiguration, .format, c.fmt.setWidth 32⟩, ?_, ?_, fun h => h6 h.fmt⟩
    · simp only [validate, h1, h2', hr.2 h3, h4', h5', Bool.eq_false_iff.2 (mt hf.1 h6), if_false, if_true,
        Bool.not_true, Bool.not_false, Bool.false_eq_true]
    · exact report_of_codes (EncodeGate reg c) rfl rfl (toNat_setWidth_32 _ (by omega)) (.v6 ht h3 h4 h5 h6)
  by_cases h7 : CodecKnown c.codec.toNat
  swap
  · refine .inr ⟨⟨.invalidConfiguration, .codec, c.codec.setWidth 32⟩, ?_, ?_, fun h => h7 h.codec⟩
    · simp only [validate, h1, h2', hr.2 h3, h4', h5', hf.2 h6, Bool.eq_false_iff.2 (mt hk.1 h7), if_false, if_true,
        Bool.not_true, Bool.not_false, Bool.false_eq_true]
    · exact report_of_codes (EncodeGate reg c) rfl rfl (toNat_setWidth_32 _ (by omega)) (.v7 ht h3 h4 h5 h6 h7)
  refine .inl ⟨?_, ⟨ht, h3, h4, h5, h6, h7⟩⟩
  simp only [validate, h1, h2', hr.2 h3, h4', h5', hf.2 h6, hk.2 h7, if_false, Bool.not_true, Bool.false_eq_true]

theorem validate_ok_iff (reg : Registry) (c : HeaderConfig) : validate reg c = .ok () ↔ Encodable reg c := by
  rcases validate_spec reg c with ⟨h, e⟩ | ⟨e, h, -, ne⟩
  · simp [h, e]
  · simp [h, ne]

/-! ### Numbers of bytes and words -/

theorem be32_toNat (b0 b1 b2 b3 : Byte) : (be32 b0 b1 b2 b3).toNat = be32Nat b0 b1 b2 b3 := by
  have h0 := b0.isLt; have h1 := b1.isLt; have h2 := b2.isLt; have h3 := b3.isLt
  simp only [be32, be32Nat, BitVec.toNat_append]
  rw [← Nat.shiftLeft_add_eq_or_of_lt h1, ← Nat.shiftLeft_add_eq_or_of_lt h2, ← Nat.shiftLeft_add_eq_or_of_lt h3]
  simp only [Nat.shiftLeft_eq]; omega

theorem laneByte_toNat (d : Word) (i : Nat) : (laneByte d i).toNat = d.toNat / 2 ^ (24 - 8 * i) % 2 ^ 8 := by
  simp [laneByte, BitVec.extractLsb', Nat.shiftRight_eq_div_pow]

theorem be32_lanes (d : Word) : be32 (laneByte d 0) (laneByte d 1) (laneByte d 2) (laneByte d 3) = d := by
  have hd := d.isLt
  apply BitVec.eq_of_toNat_eq
  rw [be32_toNat]
  simp only [be32Nat, laneByte_toNat]
  omega

theorem laneByte_be32 (b : Fin 4 → Byte) (i : Fin 4) : laneByte (be32 (b 0) (b 1) (b 2) (b 3)) i.val = b i := by
  have h0 := (b 0).isLt; have h1 := (b 1).isLt; have h2 := (b 2).isLt; have h3 := (b 3).isLt
  apply BitVec.eq_of_toNat_eq
  rw [laneByte_toNat, be32_toNat]
  simp only [be32Nat]
  match i with
  | ⟨0, _⟩ | ⟨1, _⟩ | ⟨2, _⟩ | ⟨3, _⟩ => simp only [show (⟨0, by omega⟩ : Fin 4) = 0 from rfl,
      show (⟨1, by omega⟩ : Fin 4) = 1 from rfl, show (⟨2, by omega⟩ : Fin 4) = 2 from rfl,
      show (⟨3, by omega⟩ : Fin 4) = 3 from rfl]; omega

theorem getElem_nameEnc (name : Vector Byte 16) (len : BitVec 8) (i : Fin 16) :
    (nameEnc name len)[i] = if i.val < min len.toNat 16 then name[i] else 0x00 := by
  simp [nameEnc]

theorem getElem_pack (f : Fields) (k : Nat) (h : k < 28) : (pack f)[k] = packByte f k := by simp [pack]

theorem getElem_setWord {n : Nat} (v : Vector Byte n) (w : Nat) (d : Word) (k : Nat) (h : k < n) :
    (setWord v w d)[k] = if k / 4 = w then laneByte d (k % 4) else v[k] := by simp [setWord]

/-! ### Pack -/

/-- `Pack` of an encodable tuple gives its header (40_header_codec.md R96). -/
theorem headerOf_pack {reg : Registry} {f : Fields} (hf : Encodable reg f.toHeaderConfig) : HeaderOf f (pack f) where
  magic := by simp [MagicOk, getElem_pack, packByte]
  byte4 := by
    have ht := f.tag.isLt; have hr := f.rate.isLt
    simp only [getElem_pack, packByte]
    simp only [Nat.reduceEqDiff, if_false, if_true, BitVec.toNat_or, BitVec.toNat_shiftLeft,
      BitVec.toNat_setWidth]
    rw [Nat.mod_eq_of_lt (show f.tag.toNat < 2 ^ 8 by omega), Nat.mod_eq_of_lt (show f.rate.toNat < 2 ^ 8 by omega),
      Nat.mod_eq_of_lt (by rw [Nat.shiftLeft_eq]; omega), ← Nat.shiftLeft_add_eq_or_of_lt (by omega), Nat.shiftLeft_eq]
  byte5 := by
    have hs := hf.samp; unfold CountLegal at hs
    simp [getElem_pack, packByte, BitVec.toNat_sub]; omega
  byte6 := by
    have hs := hf.chan; unfold CountLegal at hs
    simp [getElem_pack, packByte, BitVec.toNat_sub]; omega
  byte7 := by
    have ht := f.fmt.isLt; have hr := f.codec.isLt
    simp only [getElem_pack, packByte]
    simp only [Nat.reduceEqDiff, if_false, if_true, BitVec.toNat_or, BitVec.toNat_shiftLeft,
      BitVec.toNat_setWidth]
    rw [Nat.mod_eq_of_lt (show f.fmt.toNat < 2 ^ 8 by omega), Nat.mod_eq_of_lt (show f.codec.toNat < 2 ^ 8 by omega),
      Nat.mod_eq_of_lt (by rw [Nat.shiftLeft_eq]; omega), Nat.shiftLeft_eq]
  name := by
    intro i
    have hi := i.isLt
    rw [getElem_pack]
    simp only [packByte, show ¬ 8 + i.val = 0 by omega, show ¬ 8 + i.val = 1 by omega, show ¬ 8 + i.val = 2 by omega,
      show ¬ 8 + i.val = 3 by omega, show ¬ 8 + i.val = 4 by omega, show ¬ 8 + i.val = 5 by omega,
      show ¬ 8 + i.val = 6 by omega, show ¬ 8 + i.val = 7 by omega, show 8 + i.val < 24 by omega, if_false, if_true,
      Nat.add_sub_cancel_left]
    simpa [byteAt] using getElem_nameEnc f.name f.namelen i
  frame := by
    simp only [getElem_pack, packByte]
    have h := be32_toNat (laneByte f.frame 0) (laneByte f.frame 1) (laneByte f.frame 2) (laneByte f.frame 3)
    rw [be32_lanes] at h
    exact h.symm

/-! ### NameDec -/

/-- The fold of R97, stopped after `n` bytes. -/
theorem nameDec_prefix (b : Vector Byte 16) : ∀ n : Nat, (hn : n ≤ 16) →
    ∃ l, ((List.finRange 16).take n).foldl (fun len i => if b[i] ≠ 0x00 then i.val + 1 else len) 0 = l ∧ l ≤ n ∧
      (∀ i : Fin 16, l ≤ i.val → i.val < n → b[i] = 0x00) ∧ (∀ i : Fin 16, i.val + 1 = l → b[i] ≠ 0x00) := by
  intro n
  induction n with
  | zero => exact fun _ => ⟨0, by simp, by omega, by intros; omega, by intros; omega⟩
  | succ n ih =>
    intro hn
    obtain ⟨l, hl, hle, hz, hlast⟩ := ih (by omega)
    have ht : (List.finRange 16).take (n + 1) = (List.finRange 16).take n ++ [⟨n, hn⟩] := by
      rw [List.take_add_one]
      simp [show n < 16 by omega]
    rw [ht, List.foldl_append, hl]
    by_cases hb : b[n] = 0x00
    · refine ⟨l, by simp [hb], by omega, fun i h1 h2 => ?_, hlast⟩
      by_cases h : i.val = n
      · obtain ⟨i, hi⟩ := i; subst h; exact hb
      · exact hz i h1 (by omega)
    · refine ⟨n + 1, by simpa using fun h => absurd h hb, by omega, by intros; omega, fun i h => ?_⟩
      obtain ⟨i, hi⟩ := i
      have : i = n := by simpa using h
      subst this; exact hb

/-- `NameDec` gives the length of the name without its trailing 0x00 bytes (40_header_codec.md R97). -/
theorem nameLen_nameDec (b : Vector Byte 16) : NameLen b (nameDecLen b) := by
  obtain ⟨l, hl, hle, hz, hlast⟩ := nameDec_prefix b 16 (by omega)
  have e : nameDecLen b = l := by rw [← hl]; rfl
  exact ⟨by omega, fun i h => hz i (by omega) i.isLt, fun i h => hlast i (by omega)⟩

/-- Only one length is that of a name. -/
theorem nameLen_unique {b : Vector Byte 16} {m n : Nat} (hm : NameLen b m) (hn : NameLen b n) : m = n := by
  rcases Nat.lt_trichotomy m n with h | h | h
  · have := hn.bound
    exact absurd (hm.padding ⟨n - 1, by omega⟩ (by simp; omega)) (hn.last ⟨n - 1, by omega⟩ (by simp; omega))
  · exact h
  · have := hm.bound
    exact absurd (hn.padding ⟨m - 1, by omega⟩ (by simp; omega)) (hm.last ⟨m - 1, by omega⟩ (by simp; omega))

/-! ### Unpack -/

theorem headerTag_toNat (h : Vector Byte 28) : (headerTag h).toNat = h[4].toNat / 32 := by
  have := h[4].isLt
  simp only [headerTag, BitVec.toNat_setWidth, BitVec.toNat_ushiftRight, Nat.shiftRight_eq_div_pow]
  omega

theorem byte_mask_1F (b : Byte) : (b &&& 0x1F).toNat = b.toNat % 32 := by
  simpa using Nat.and_two_pow_sub_one_eq_mod b.toNat 5

theorem byte_mask_F0 (b : Byte) : (b &&& 0xF0).toNat = b.toNat / 16 * 16 := by revert b; decide

theorem byte_mask_E0 (b : Byte) : (b &&& 0xE0).toNat = b.toNat / 32 * 32 := by revert b; decide

/-- The fields that R98 reads from a header. -/
theorem fieldsOf_headerFields (h : Vector Byte 28) : FieldsOf h (headerFields h) where
  tag := headerTag_toNat h
  rate := by
    have := h[4].isLt
    simp only [headerFields, BitVec.toNat_setWidth, byte_mask_1F]; omega
  samp := by
    have := h[5].isLt
    simp only [headerFields, BitVec.toNat_add, BitVec.toNat_setWidth, show (1 : BitVec 16).toNat = 1 from rfl]; omega
  chan := by
    have := h[6].isLt
    simp only [headerFields, BitVec.toNat_add, BitVec.toNat_setWidth, show (1 : BitVec 16).toNat = 1 from rfl]; omega
  fmt := by
    have := h[7].isLt
    simp only [headerFields, BitVec.toNat_setWidth, byte_mask_1F]; omega
  codec := by
    have := h[7].isLt
    simp only [headerFields, BitVec.toNat_setWidth, BitVec.toNat_ushiftRight, Nat.shiftRight_eq_div_pow, byte_mask_F0]
    omega
  name := by
    intro i
    simp [headerFields, headerName, Nat.add_comm]
  namelen := by
    have hl := nameLen_nameDec (headerName h)
    have := hl.bound
    have e : (headerFields h).namelen.toNat = nameDecLen (headerName h) := by
      simp only [headerFields, BitVec.toNat_ofNat]; omega
    rw [e]; exact hl
  frame := be32_toNat _ _ _ _

theorem magic_iff (h : Vector Byte 28) : be32 h[0] h[1] h[2] h[3] = magicWord ↔ MagicOk h := by
  have h0 := h[0].isLt; have h1 := h[1].isLt; have h2 := h[2].isLt; have h3 := h[3].isLt
  simp only [MagicOk, magicWord, ← BitVec.toNat_inj, be32_toNat, be32Nat, show (0x5642414E : Word).toNat = 0x5642414E from rfl,
    show (0x56 : Byte).toNat = 0x56 from rfl, show (0x42 : Byte).toNat = 0x42 from rfl,
    show (0x41 : Byte).toNat = 0x41 from rfl, show (0x4E : Byte).toNat = 0x4E from rfl]
  omega

/-- All that `Unpack` can answer: the fields of a decodable header, or the first failing gate (40_header_codec.md R98). -/
theorem unpack_spec (reg : Registry) (h : Vector Byte 28) :
    (unpack reg h = .ok (headerFields h) ∧ Decodable28 reg h) ∨
      ∃ e, unpack reg h = .error e ∧ DecodeGate reg h (reportOf e) ∧ ¬ Decodable28 reg h := by
  have F := fieldsOf_headerFields h
  have hr := rateResolves_iff reg (headerTag h) (headerFields h).rate
  have hf := fmtResolves_iff reg (headerTag h) (headerFields h).fmt
  have hk := codecAssigned_iff (headerFields h).codec
  rw [headerTag_toNat, F.rate] at hr
  rw [headerTag_toNat, F.fmt] at hf
  rw [F.codec] at hk
  have ht := headerTag_toNat h
  by_cases h1 : MagicOk h
  swap
  · refine .inr ⟨⟨.badMagic, .magic, be32 h[0] h[1] h[2] h[3]⟩, ?_, ?_, fun d => h1 d.magic⟩
    · simp only [unpack, ne_eq, mt (magic_iff h).1 h1, not_false_eq_true, if_true]
    · exact report_of_codes (DecodeGate reg h) rfl rfl (be32_toNat _ _ _ _) (.u1 h1)
  have h1' := (magic_iff h).2 h1
  by_cases h2 : 4 ≤ h[4].toNat / 32
  · refine .inr ⟨⟨.invalidHeader, .protocol, (h[4] &&& 0xE0).setWidth 32⟩, ?_, ?_, fun d => ?_⟩
    · simp only [unpack, ne_eq, h1', not_true_eq_false, ht, h2, if_true, if_false]
    · exact report_of_codes (DecodeGate reg h) rfl rfl ((toNat_setWidth_32 _ (by omega)).trans (byte_mask_E0 _)) (.u2 h1 h2)
    · have := d.tag; omega
  by_cases h3 : h[4].toNat / 32 = 3
  · refine .inr ⟨⟨.unsupportedProtocol, .protocol, (h[4] &&& 0xE0).setWidth 32⟩, ?_, ?_, fun d => ?_⟩
    · simp only [unpack, ne_eq, h1', not_true_eq_false, (tag_eq_three _).2 (ht.trans h3), if_true, if_false]; rfl
    · exact report_of_codes (DecodeGate reg h) rfl rfl
        ((toNat_setWidth_32 _ (by omega)).trans (by rw [byte_mask_E0, h3])) (.u3 h1 h3)
    · have := d.tag; omega
  have h3' : ¬ headerTag h = 3 := by rw [tag_eq_three, ht]; exact h3
  have hlt : h[4].toNat / 32 < 3 := by omega
  by_cases h4 : RateKnown reg (h[4].toNat / 32) (h[4].toNat % 32)
  swap
  · refine .inr ⟨⟨.invalidPacketAttribute, .rate, (h[4] &&& 0x1F).setWidth 32⟩, ?_, ?_, fun d => h4 d.rate⟩
    · simp only [unpack, ne_eq, h1', not_true_eq_false, ht, h2, h3', Bool.eq_false_iff.2 (mt hr.1 h4), if_true, if_false,
        Bool.not_false]
    · exact report_of_codes (DecodeGate reg h) rfl rfl ((toNat_setWidth_32 _ (by omega)).trans (byte_mask_1F _)) (.u4 h1 hlt h4)
  by_cases h5 : FmtKnown reg (h[4].toNat / 32) (h[7].toNat % 32)
  swap
  · refine .inr ⟨⟨.invalidPacketAttribute, .format, (h[7] &&& 0x1F).setWidth 32⟩, ?_, ?_, fun d => h5 d.fmt⟩
    · simp only [unpack, ne_eq, h1', not_true_eq_false, ht, h2, h3', hr.2 h4, Bool.eq_false_iff.2 (mt hf.1 h5), if_true,
        if_false, Bool.not_false, Bool.not_true, Bool.false_eq_true]
    · exact report_of_codes (DecodeGate reg h) rfl rfl ((toNat_setWidth_32 _ (by omega)).trans (byte_mask_1F _)) (.u5 h1 hlt h4 h5)
  by_cases h6 : CodecKnown (h[7].toNat / 16)
  swap
  · refine .inr ⟨⟨.invalidPacketAttribute, .codec, (h[7] &&& 0xF0).setWidth 32⟩, ?_, ?_, fun d => h6 d.codec⟩
    · simp only [unpack, ne_eq, h1', not_true_eq_false, ht, h2, h3', hr.2 h4, hf.2 h5, Bool.eq_false_iff.2 (mt hk.1 h6),
        if_true, if_false, Bool.not_false, Bool.not_true, Bool.false_eq_true]
    · exact report_of_codes (DecodeGate reg h) rfl rfl ((toNat_setWidth_32 _ (by omega)).trans (byte_mask_F0 _)) (.u6 h1 hlt h4 h5 h6)
  refine .inl ⟨?_, ⟨h1, hlt, h4, h5, h6⟩⟩
  simp only [unpack, ne_eq, h1', not_true_eq_false, ht, h2, h3', hr.2 h4, hf.2 h5, hk.2 h6, if_false, Bool.not_true,
    Bool.false_eq_true]

theorem unpack_ok_iff (reg : Registry) (h : Vector Byte 28) :
    unpack reg h = .ok (headerFields h) ↔ Decodable28 reg h := by
  rcases unpack_spec reg h with ⟨u, d⟩ | ⟨e, u, -, nd⟩
  · simp [u, d]
  · simp [u, nd]

end Sys2Proof.Machine
end

