-- ==== Sys2Proof/Laws/State.lean ====
section
/-! SUPPORT. What each update of the state does to each field, one lemma a field, so that no later proof unfolds a record
update. -/

namespace Sys2Proof.Machine

variable (s : State)

/-! State.raise (60_exceptions.md R129) -/

@[simp] theorem raise_params (e : Failure) : (s.raise e).params = s.params := rfl
@[simp] theorem raise_err (e : Failure) : (s.raise e).err = errCode e.err := rfl
@[simp] theorem raise_hv (e : Failure) : (s.raise e).hv = s.hv := rfl
@[simp] theorem raise_pv (e : Failure) : (s.raise e).pv = s.pv := rfl
@[simp] theorem raise_hd (e : Failure) : (s.raise e).hd = s.hd := rfl
@[simp] theorem raise_gv (e : Failure) : (s.raise e).gv = s.gv := rfl
@[simp] theorem raise_pset (e : Failure) : (s.raise e).pset = s.pset := rfl
@[simp] theorem raise_errFld (e : Failure) : (s.raise e).errFld = fldCode e.fld := rfl
@[simp] theorem raise_errVal (e : Failure) : (s.raise e).errVal = e.raw := rfl
@[simp] theorem raise_counter (e : Failure) : (s.raise e).counter = s.counter := rfl
@[simp] theorem raise_dlen (e : Failure) : (s.raise e).dlen = s.dlen := rfl
@[simp] theorem raise_pktLen (e : Failure) : (s.raise e).pktLen = s.pktLen := rfl
@[simp] theorem raise_f (e : Failure) : (s.raise e).f = s.f := rfl
@[simp] theorem raise_hdr (e : Failure) : (s.raise e).hdr = s.hdr := rfl
@[simp] theorem raise_g (e : Failure) : (s.raise e).g = s.g := rfl
@[simp] theorem raise_pkt (e : Failure) : (s.raise e).pkt = s.pkt := rfl
@[simp] theorem raise_dbuf (e : Failure) : (s.raise e).dbuf = s.dbuf := rfl
@[simp] theorem raise_epoch (e : Failure) : (s.raise e).epoch = s.epoch := rfl
@[simp] theorem raise_pktEpoch (e : Failure) : (s.raise e).pktEpoch = s.pktEpoch := rfl
@[simp] theorem raise_port (e : Failure) : (s.raise e).port = s.port := rfl

/-! State.succeed (60_exceptions.md R130) -/

@[simp] theorem succeed_params : (s.succeed).params = s.params := rfl
@[simp] theorem succeed_err : (s.succeed).err = 0x00 := rfl
@[simp] theorem succeed_hv : (s.succeed).hv = s.hv := rfl
@[simp] theorem succeed_pv : (s.succeed).pv = s.pv := rfl
@[simp] theorem succeed_hd : (s.succeed).hd = s.hd := rfl
@[simp] theorem succeed_gv : (s.succeed).gv = s.gv := rfl
@[simp] theorem succeed_pset : (s.succeed).pset = s.pset := rfl
@[simp] theorem succeed_errFld : (s.succeed).errFld = 0 := rfl
@[simp] theorem succeed_errVal : (s.succeed).errVal = 0 := rfl
@[simp] theorem succeed_counter : (s.succeed).counter = s.counter := rfl
@[simp] theorem succeed_dlen : (s.succeed).dlen = s.dlen := rfl
@[simp] theorem succeed_pktLen : (s.succeed).pktLen = s.pktLen := rfl
@[simp] theorem succeed_f : (s.succeed).f = s.f := rfl
@[simp] theorem succeed_hdr : (s.succeed).hdr = s.hdr := rfl
@[simp] theorem succeed_g : (s.succeed).g = s.g := rfl
@[simp] theorem succeed_pkt : (s.succeed).pkt = s.pkt := rfl
@[simp] theorem succeed_dbuf : (s.succeed).dbuf = s.dbuf := rfl
@[simp] theorem succeed_epoch : (s.succeed).epoch = s.epoch := rfl
@[simp] theorem succeed_pktEpoch : (s.succeed).pktEpoch = s.pktEpoch := rfl
@[simp] theorem succeed_port : (s.succeed).port = s.port := rfl

/-! State.headerProduced (10_state.md R37) -/

@[simp] theorem headerProduced_params (h : Vector Byte 28) : (s.headerProduced h).params = s.params := rfl
@[simp] theorem headerProduced_err (h : Vector Byte 28) : (s.headerProduced h).err = s.err := rfl
@[simp] theorem headerProduced_hv (h : Vector Byte 28) : (s.headerProduced h).hv = true := rfl
@[simp] theorem headerProduced_pv (h : Vector Byte 28) : (s.headerProduced h).pv = s.pv := rfl
@[simp] theorem headerProduced_hd (h : Vector Byte 28) : (s.headerProduced h).hd = s.hd := rfl
@[simp] theorem headerProduced_gv (h : Vector Byte 28) : (s.headerProduced h).gv = s.gv := rfl
@[simp] theorem headerProduced_pset (h : Vector Byte 28) : (s.headerProduced h).pset = s.pset := rfl
@[simp] theorem headerProduced_errFld (h : Vector Byte 28) : (s.headerProduced h).errFld = s.errFld := rfl
@[simp] theorem headerProduced_errVal (h : Vector Byte 28) : (s.headerProduced h).errVal = s.errVal := rfl
@[simp] theorem headerProduced_counter (h : Vector Byte 28) : (s.headerProduced h).counter = s.counter := rfl
@[simp] theorem headerProduced_dlen (h : Vector Byte 28) : (s.headerProduced h).dlen = s.dlen := rfl
@[simp] theorem headerProduced_pktLen (h : Vector Byte 28) : (s.headerProduced h).pktLen = s.pktLen := rfl
@[simp] theorem headerProduced_f (h : Vector Byte 28) : (s.headerProduced h).f = s.f := rfl
@[simp] theorem headerProduced_hdr (h : Vector Byte 28) : (s.headerProduced h).hdr = h := rfl
@[simp] theorem headerProduced_g (h : Vector Byte 28) : (s.headerProduced h).g = s.g := rfl
@[simp] theorem headerProduced_pkt (h : Vector Byte 28) : (s.headerProduced h).pkt = s.pkt := rfl
@[simp] theorem headerProduced_dbuf (h : Vector Byte 28) : (s.headerProduced h).dbuf = s.dbuf := rfl
@[simp] theorem headerProduced_epoch (h : Vector Byte 28) : (s.headerProduced h).epoch = s.epoch := rfl
@[simp] theorem headerProduced_pktEpoch (h : Vector Byte 28) : (s.headerProduced h).pktEpoch = s.pktEpoch := rfl
@[simp] theorem headerProduced_port (h : Vector Byte 28) : (s.headerProduced h).port = s.port := rfl

/-! State.setPacket (10_state.md R24, R40) -/

@[simp] theorem setPacket_params (bs : List Byte) : (s.setPacket bs).params = s.params := rfl
@[simp] theorem setPacket_err (bs : List Byte) : (s.setPacket bs).err = s.err := rfl
@[simp] theorem setPacket_hv (bs : List Byte) : (s.setPacket bs).hv = s.hv := rfl
@[simp] theorem setPacket_pv (bs : List Byte) : (s.setPacket bs).pv = s.pv := rfl
@[simp] theorem setPacket_hd (bs : List Byte) : (s.setPacket bs).hd = s.hd := rfl
@[simp] theorem setPacket_gv (bs : List Byte) : (s.setPacket bs).gv = s.gv := rfl
@[simp] theorem setPacket_pset (bs : List Byte) : (s.setPacket bs).pset = s.pset := rfl
@[simp] theorem setPacket_errFld (bs : List Byte) : (s.setPacket bs).errFld = s.errFld := rfl
@[simp] theorem setPacket_errVal (bs : List Byte) : (s.setPacket bs).errVal = s.errVal := rfl
@[simp] theorem setPacket_counter (bs : List Byte) : (s.setPacket bs).counter = s.counter := rfl
@[simp] theorem setPacket_dlen (bs : List Byte) : (s.setPacket bs).dlen = s.dlen := rfl
@[simp] theorem setPacket_pktLen (bs : List Byte) : (s.setPacket bs).pktLen = BitVec.ofNat 11 bs.length := rfl
@[simp] theorem setPacket_f (bs : List Byte) : (s.setPacket bs).f = s.f := rfl
@[simp] theorem setPacket_hdr (bs : List Byte) : (s.setPacket bs).hdr = s.hdr := rfl
@[simp] theorem setPacket_g (bs : List Byte) : (s.setPacket bs).g = s.g := rfl
@[simp] theorem setPacket_pkt (bs : List Byte) : (s.setPacket bs).pkt = Memory.cells 0 bs := rfl
@[simp] theorem setPacket_dbuf (bs : List Byte) : (s.setPacket bs).dbuf = s.dbuf := rfl
@[simp] theorem setPacket_epoch (bs : List Byte) : (s.setPacket bs).epoch = s.epoch := rfl
@[simp] theorem setPacket_pktEpoch (bs : List Byte) : (s.setPacket bs).pktEpoch = s.pktEpoch + 1 := rfl
@[simp] theorem setPacket_port (bs : List Byte) : (s.setPacket bs).port = s.port := rfl

/-! State.hostWroteHdr (10_state.md R37) -/

@[simp] theorem hostWroteHdr_params (w : Nat) (d : Word) : (s.hostWroteHdr w d).params = s.params := rfl
@[simp] theorem hostWroteHdr_err (w : Nat) (d : Word) : (s.hostWroteHdr w d).err = s.err := rfl
@[simp] theorem hostWroteHdr_hv (w : Nat) (d : Word) : (s.hostWroteHdr w d).hv = false := rfl
@[simp] theorem hostWroteHdr_pv (w : Nat) (d : Word) : (s.hostWroteHdr w d).pv = s.pv := rfl
@[simp] theorem hostWroteHdr_hd (w : Nat) (d : Word) : (s.hostWroteHdr w d).hd = s.hd := rfl
@[simp] theorem hostWroteHdr_gv (w : Nat) (d : Word) : (s.hostWroteHdr w d).gv = s.gv := rfl
@[simp] theorem hostWroteHdr_pset (w : Nat) (d : Word) : (s.hostWroteHdr w d).pset = s.pset := rfl
@[simp] theorem hostWroteHdr_errFld (w : Nat) (d : Word) : (s.hostWroteHdr w d).errFld = s.errFld := rfl
@[simp] theorem hostWroteHdr_errVal (w : Nat) (d : Word) : (s.hostWroteHdr w d).errVal = s.errVal := rfl
@[simp] theorem hostWroteHdr_counter (w : Nat) (d : Word) : (s.hostWroteHdr w d).counter = s.counter := rfl
@[simp] theorem hostWroteHdr_dlen (w : Nat) (d : Word) : (s.hostWroteHdr w d).dlen = s.dlen := rfl
@[simp] theorem hostWroteHdr_pktLen (w : Nat) (d : Word) : (s.hostWroteHdr w d).pktLen = s.pktLen := rfl
@[simp] theorem hostWroteHdr_f (w : Nat) (d : Word) : (s.hostWroteHdr w d).f = s.f := rfl
@[simp] theorem hostWroteHdr_hdr (w : Nat) (d : Word) : (s.hostWroteHdr w d).hdr = setWord s.hdr w d := rfl
@[simp] theorem hostWroteHdr_g (w : Nat) (d : Word) : (s.hostWroteHdr w d).g = s.g := rfl
@[simp] theorem hostWroteHdr_pkt (w : Nat) (d : Word) : (s.hostWroteHdr w d).pkt = s.pkt := rfl
@[simp] theorem hostWroteHdr_dbuf (w : Nat) (d : Word) : (s.hostWroteHdr w d).dbuf = s.dbuf := rfl
@[simp] theorem hostWroteHdr_epoch (w : Nat) (d : Word) : (s.hostWroteHdr w d).epoch = s.epoch := rfl
@[simp] theorem hostWroteHdr_pktEpoch (w : Nat) (d : Word) : (s.hostWroteHdr w d).pktEpoch = s.pktEpoch := rfl
@[simp] theorem hostWroteHdr_port (w : Nat) (d : Word) : (s.hostWroteHdr w d).port = s.port := rfl

/-! State.hostWroteProto (10_state.md R27) -/

@[simp] theorem hostWroteProto_params (t : BitVec 3) : (s.hostWroteProto t).params = s.params := rfl
@[simp] theorem hostWroteProto_err (t : BitVec 3) : (s.hostWroteProto t).err = s.err := rfl
@[simp] theorem hostWroteProto_hv (t : BitVec 3) : (s.hostWroteProto t).hv = s.hv := rfl
@[simp] theorem hostWroteProto_pv (t : BitVec 3) : (s.hostWroteProto t).pv = s.pv := rfl
@[simp] theorem hostWroteProto_hd (t : BitVec 3) : (s.hostWroteProto t).hd = s.hd := rfl
@[simp] theorem hostWroteProto_gv (t : BitVec 3) : (s.hostWroteProto t).gv = s.gv := rfl
@[simp] theorem hostWroteProto_pset (t : BitVec 3) : (s.hostWroteProto t).pset = true := rfl
@[simp] theorem hostWroteProto_errFld (t : BitVec 3) : (s.hostWroteProto t).errFld = s.errFld := rfl
@[simp] theorem hostWroteProto_errVal (t : BitVec 3) : (s.hostWroteProto t).errVal = s.errVal := rfl
@[simp] theorem hostWroteProto_counter (t : BitVec 3) : (s.hostWroteProto t).counter = s.counter := rfl
@[simp] theorem hostWroteProto_dlen (t : BitVec 3) : (s.hostWroteProto t).dlen = s.dlen := rfl
@[simp] theorem hostWroteProto_pktLen (t : BitVec 3) : (s.hostWroteProto t).pktLen = s.pktLen := rfl
@[simp] theorem hostWroteProto_f (t : BitVec 3) : (s.hostWroteProto t).f = { s.f with tag := t } := rfl
@[simp] theorem hostWroteProto_hdr (t : BitVec 3) : (s.hostWroteProto t).hdr = s.hdr := rfl
@[simp] theorem hostWroteProto_g (t : BitVec 3) : (s.hostWroteProto t).g = s.g := rfl
@[simp] theorem hostWroteProto_pkt (t : BitVec 3) : (s.hostWroteProto t).pkt = s.pkt := rfl
@[simp] theorem hostWroteProto_dbuf (t : BitVec 3) : (s.hostWroteProto t).dbuf = s.dbuf := rfl
@[simp] theorem hostWroteProto_epoch (t : BitVec 3) : (s.hostWroteProto t).epoch = s.epoch := rfl
@[simp] theorem hostWroteProto_pktEpoch (t : BitVec 3) : (s.hostWroteProto t).pktEpoch = s.pktEpoch := rfl
@[simp] theorem hostWroteProto_port (t : BitVec 3) : (s.hostWroteProto t).port = s.port := rfl

/-! State.writeFields (40_header_codec.md R99) -/

@[simp] theorem writeFields_params (F : Fields) : (s.writeFields F).params = s.params := rfl
@[simp] theorem writeFields_err (F : Fields) : (s.writeFields F).err = s.err := rfl
@[simp] theorem writeFields_hv (F : Fields) : (s.writeFields F).hv = s.hv := rfl
@[simp] theorem writeFields_pv (F : Fields) : (s.writeFields F).pv = s.pv := rfl
@[simp] theorem writeFields_hd (F : Fields) : (s.writeFields F).hd = s.hd := rfl
@[simp] theorem writeFields_gv (F : Fields) : (s.writeFields F).gv = s.gv := rfl
@[simp] theorem writeFields_pset (F : Fields) : (s.writeFields F).pset = true := rfl
@[simp] theorem writeFields_errFld (F : Fields) : (s.writeFields F).errFld = s.errFld := rfl
@[simp] theorem writeFields_errVal (F : Fields) : (s.writeFields F).errVal = s.errVal := rfl
@[simp] theorem writeFields_counter (F : Fields) : (s.writeFields F).counter = s.counter := rfl
@[simp] theorem writeFields_dlen (F : Fields) : (s.writeFields F).dlen = s.dlen := rfl
@[simp] theorem writeFields_pktLen (F : Fields) : (s.writeFields F).pktLen = s.pktLen := rfl
@[simp] theorem writeFields_f (F : Fields) : (s.writeFields F).f = F := rfl
@[simp] theorem writeFields_hdr (F : Fields) : (s.writeFields F).hdr = s.hdr := rfl
@[simp] theorem writeFields_g (F : Fields) : (s.writeFields F).g = s.g := rfl
@[simp] theorem writeFields_pkt (F : Fields) : (s.writeFields F).pkt = s.pkt := rfl
@[simp] theorem writeFields_dbuf (F : Fields) : (s.writeFields F).dbuf = s.dbuf := rfl
@[simp] theorem writeFields_epoch (F : Fields) : (s.writeFields F).epoch = s.epoch := rfl
@[simp] theorem writeFields_pktEpoch (F : Fields) : (s.writeFields F).pktEpoch = s.pktEpoch := rfl
@[simp] theorem writeFields_port (F : Fields) : (s.writeFields F).port = s.port := rfl

/-! State.writeDbufWord (20_memory.md R52) -/

@[simp] theorem writeDbufWord_params (w : Nat) (d : Word) : (s.writeDbufWord w d).params = s.params := rfl
@[simp] theorem writeDbufWord_err (w : Nat) (d : Word) : (s.writeDbufWord w d).err = s.err := rfl
@[simp] theorem writeDbufWord_hv (w : Nat) (d : Word) : (s.writeDbufWord w d).hv = s.hv := rfl
@[simp] theorem writeDbufWord_pv (w : Nat) (d : Word) : (s.writeDbufWord w d).pv = s.pv := rfl
@[simp] theorem writeDbufWord_hd (w : Nat) (d : Word) : (s.writeDbufWord w d).hd = s.hd := rfl
@[simp] theorem writeDbufWord_gv (w : Nat) (d : Word) : (s.writeDbufWord w d).gv = s.gv := rfl
@[simp] theorem writeDbufWord_pset (w : Nat) (d : Word) : (s.writeDbufWord w d).pset = s.pset := rfl
@[simp] theorem writeDbufWord_errFld (w : Nat) (d : Word) : (s.writeDbufWord w d).errFld = s.errFld := rfl
@[simp] theorem writeDbufWord_errVal (w : Nat) (d : Word) : (s.writeDbufWord w d).errVal = s.errVal := rfl
@[simp] theorem writeDbufWord_counter (w : Nat) (d : Word) : (s.writeDbufWord w d).counter = s.counter := rfl
@[simp] theorem writeDbufWord_dlen (w : Nat) (d : Word) : (s.writeDbufWord w d).dlen = s.dlen := rfl
@[simp] theorem writeDbufWord_pktLen (w : Nat) (d : Word) : (s.writeDbufWord w d).pktLen = s.pktLen := rfl
@[simp] theorem writeDbufWord_f (w : Nat) (d : Word) : (s.writeDbufWord w d).f = s.f := rfl
@[simp] theorem writeDbufWord_hdr (w : Nat) (d : Word) : (s.writeDbufWord w d).hdr = s.hdr := rfl
@[simp] theorem writeDbufWord_g (w : Nat) (d : Word) : (s.writeDbufWord w d).g = s.g := rfl
@[simp] theorem writeDbufWord_pkt (w : Nat) (d : Word) : (s.writeDbufWord w d).pkt = s.pkt := rfl
@[simp] theorem writeDbufWord_dbuf (w : Nat) (d : Word) : (s.writeDbufWord w d).dbuf = Memory.write s.dbuf (4 * w) [laneByte d 0, laneByte d 1, laneByte d 2, laneByte d 3] := rfl
@[simp] theorem writeDbufWord_epoch (w : Nat) (d : Word) : (s.writeDbufWord w d).epoch = s.epoch := rfl
@[simp] theorem writeDbufWord_pktEpoch (w : Nat) (d : Word) : (s.writeDbufWord w d).pktEpoch = s.pktEpoch := rfl
@[simp] theorem writeDbufWord_port (w : Nat) (d : Word) : (s.writeDbufWord w d).port = s.port := rfl

/-! State.withPort -/

@[simp] theorem withPort_params (p : Port) : (s.withPort p).params = s.params := rfl
@[simp] theorem withPort_err (p : Port) : (s.withPort p).err = s.err := rfl
@[simp] theorem withPort_hv (p : Port) : (s.withPort p).hv = s.hv := rfl
@[simp] theorem withPort_pv (p : Port) : (s.withPort p).pv = s.pv := rfl
@[simp] theorem withPort_hd (p : Port) : (s.withPort p).hd = s.hd := rfl
@[simp] theorem withPort_gv (p : Port) : (s.withPort p).gv = s.gv := rfl
@[simp] theorem withPort_pset (p : Port) : (s.withPort p).pset = s.pset := rfl
@[simp] theorem withPort_errFld (p : Port) : (s.withPort p).errFld = s.errFld := rfl
@[simp] theorem withPort_errVal (p : Port) : (s.withPort p).errVal = s.errVal := rfl
@[simp] theorem withPort_counter (p : Port) : (s.withPort p).counter = s.counter := rfl
@[simp] theorem withPort_dlen (p : Port) : (s.withPort p).dlen = s.dlen := rfl
@[simp] theorem withPort_pktLen (p : Port) : (s.withPort p).pktLen = s.pktLen := rfl
@[simp] theorem withPort_f (p : Port) : (s.withPort p).f = s.f := rfl
@[simp] theorem withPort_hdr (p : Port) : (s.withPort p).hdr = s.hdr := rfl
@[simp] theorem withPort_g (p : Port) : (s.withPort p).g = s.g := rfl
@[simp] theorem withPort_pkt (p : Port) : (s.withPort p).pkt = s.pkt := rfl
@[simp] theorem withPort_dbuf (p : Port) : (s.withPort p).dbuf = s.dbuf := rfl
@[simp] theorem withPort_epoch (p : Port) : (s.withPort p).epoch = s.epoch := rfl
@[simp] theorem withPort_pktEpoch (p : Port) : (s.withPort p).pktEpoch = s.pktEpoch := rfl
@[simp] theorem withPort_port (p : Port) : (s.withPort p).port = p := rfl
@[simp] theorem withPort_self : s.withPort s.port = s := rfl
@[simp] theorem withPort_withPort (p q : Port) : (s.withPort p).withPort q = s.withPort q := rfl

/-! State.takeEvent -/

@[simp] theorem takeEvent_params : (s.takeEvent).params = s.params := rfl
@[simp] theorem takeEvent_err : (s.takeEvent).err = s.err := rfl
@[simp] theorem takeEvent_hv : (s.takeEvent).hv = s.hv := rfl
@[simp] theorem takeEvent_pv : (s.takeEvent).pv = s.pv := rfl
@[simp] theorem takeEvent_hd : (s.takeEvent).hd = s.hd := rfl
@[simp] theorem takeEvent_gv : (s.takeEvent).gv = s.gv := rfl
@[simp] theorem takeEvent_pset : (s.takeEvent).pset = s.pset := rfl
@[simp] theorem takeEvent_errFld : (s.takeEvent).errFld = s.errFld := rfl
@[simp] theorem takeEvent_errVal : (s.takeEvent).errVal = s.errVal := rfl
@[simp] theorem takeEvent_counter : (s.takeEvent).counter = s.counter := rfl
@[simp] theorem takeEvent_dlen : (s.takeEvent).dlen = s.dlen := rfl
@[simp] theorem takeEvent_pktLen : (s.takeEvent).pktLen = s.pktLen := rfl
@[simp] theorem takeEvent_f : (s.takeEvent).f = s.f := rfl
@[simp] theorem takeEvent_hdr : (s.takeEvent).hdr = s.hdr := rfl
@[simp] theorem takeEvent_g : (s.takeEvent).g = s.g := rfl
@[simp] theorem takeEvent_pkt : (s.takeEvent).pkt = s.pkt := rfl
@[simp] theorem takeEvent_dbuf : (s.takeEvent).dbuf = s.dbuf := rfl
@[simp] theorem takeEvent_epoch : (s.takeEvent).epoch = s.epoch := rfl
@[simp] theorem takeEvent_pktEpoch : (s.takeEvent).pktEpoch = s.pktEpoch := rfl
@[simp] theorem takeEvent_port : (s.takeEvent).port = { s.port with schedule := s.port.schedule.tail } := rfl

/-! State.takeAccess -/

@[simp] theorem takeAccess_params (r : Nat) : (s.takeAccess r).params = s.params := rfl
@[simp] theorem takeAccess_err (r : Nat) : (s.takeAccess r).err = s.err := rfl
@[simp] theorem takeAccess_hv (r : Nat) : (s.takeAccess r).hv = s.hv := rfl
@[simp] theorem takeAccess_pv (r : Nat) : (s.takeAccess r).pv = s.pv := rfl
@[simp] theorem takeAccess_hd (r : Nat) : (s.takeAccess r).hd = s.hd := rfl
@[simp] theorem takeAccess_gv (r : Nat) : (s.takeAccess r).gv = s.gv := rfl
@[simp] theorem takeAccess_pset (r : Nat) : (s.takeAccess r).pset = s.pset := rfl
@[simp] theorem takeAccess_errFld (r : Nat) : (s.takeAccess r).errFld = s.errFld := rfl
@[simp] theorem takeAccess_errVal (r : Nat) : (s.takeAccess r).errVal = s.errVal := rfl
@[simp] theorem takeAccess_counter (r : Nat) : (s.takeAccess r).counter = s.counter := rfl
@[simp] theorem takeAccess_dlen (r : Nat) : (s.takeAccess r).dlen = s.dlen := rfl
@[simp] theorem takeAccess_pktLen (r : Nat) : (s.takeAccess r).pktLen = s.pktLen := rfl
@[simp] theorem takeAccess_f (r : Nat) : (s.takeAccess r).f = s.f := rfl
@[simp] theorem takeAccess_hdr (r : Nat) : (s.takeAccess r).hdr = s.hdr := rfl
@[simp] theorem takeAccess_g (r : Nat) : (s.takeAccess r).g = s.g := rfl
@[simp] theorem takeAccess_pkt (r : Nat) : (s.takeAccess r).pkt = s.pkt := rfl
@[simp] theorem takeAccess_dbuf (r : Nat) : (s.takeAccess r).dbuf = s.dbuf := rfl
@[simp] theorem takeAccess_epoch (r : Nat) : (s.takeAccess r).epoch = s.epoch := rfl
@[simp] theorem takeAccess_pktEpoch (r : Nat) : (s.takeAccess r).pktEpoch = s.pktEpoch := rfl
@[simp] theorem takeAccess_port (r : Nat) : (s.takeAccess r).port = { requesters := s.port.requesters.modify r fun q => { q with program := q.program.tail }, schedule := s.port.schedule.tail } := rfl

/-! State.deliver -/

@[simp] theorem deliver_params (r : Nat) (wa : BitVec 12) (v : Word) : (s.deliver r wa v).params = s.params := rfl
@[simp] theorem deliver_err (r : Nat) (wa : BitVec 12) (v : Word) : (s.deliver r wa v).err = s.err := rfl
@[simp] theorem deliver_hv (r : Nat) (wa : BitVec 12) (v : Word) : (s.deliver r wa v).hv = s.hv := rfl
@[simp] theorem deliver_pv (r : Nat) (wa : BitVec 12) (v : Word) : (s.deliver r wa v).pv = s.pv := rfl
@[simp] theorem deliver_hd (r : Nat) (wa : BitVec 12) (v : Word) : (s.deliver r wa v).hd = s.hd := rfl
@[simp] theorem deliver_gv (r : Nat) (wa : BitVec 12) (v : Word) : (s.deliver r wa v).gv = s.gv := rfl
@[simp] theorem deliver_pset (r : Nat) (wa : BitVec 12) (v : Word) : (s.deliver r wa v).pset = s.pset := rfl
@[simp] theorem deliver_errFld (r : Nat) (wa : BitVec 12) (v : Word) : (s.deliver r wa v).errFld = s.errFld := rfl
@[simp] theorem deliver_errVal (r : Nat) (wa : BitVec 12) (v : Word) : (s.deliver r wa v).errVal = s.errVal := rfl
@[simp] theorem deliver_counter (r : Nat) (wa : BitVec 12) (v : Word) : (s.deliver r wa v).counter = s.counter := rfl
@[simp] theorem deliver_dlen (r : Nat) (wa : BitVec 12) (v : Word) : (s.deliver r wa v).dlen = s.dlen := rfl
@[simp] theorem deliver_pktLen (r : Nat) (wa : BitVec 12) (v : Word) : (s.deliver r wa v).pktLen = s.pktLen := rfl
@[simp] theorem deliver_f (r : Nat) (wa : BitVec 12) (v : Word) : (s.deliver r wa v).f = s.f := rfl
@[simp] theorem deliver_hdr (r : Nat) (wa : BitVec 12) (v : Word) : (s.deliver r wa v).hdr = s.hdr := rfl
@[simp] theorem deliver_g (r : Nat) (wa : BitVec 12) (v : Word) : (s.deliver r wa v).g = s.g := rfl
@[simp] theorem deliver_pkt (r : Nat) (wa : BitVec 12) (v : Word) : (s.deliver r wa v).pkt = s.pkt := rfl
@[simp] theorem deliver_dbuf (r : Nat) (wa : BitVec 12) (v : Word) : (s.deliver r wa v).dbuf = s.dbuf := rfl
@[simp] theorem deliver_epoch (r : Nat) (wa : BitVec 12) (v : Word) : (s.deliver r wa v).epoch = s.epoch := rfl
@[simp] theorem deliver_pktEpoch (r : Nat) (wa : BitVec 12) (v : Word) : (s.deliver r wa v).pktEpoch = s.pktEpoch := rfl
@[simp] theorem deliver_port (r : Nat) (wa : BitVec 12) (v : Word) : (s.deliver r wa v).port = { s.port with requesters := s.port.requesters.modify r fun q => { q with returned := q.returned ++ [(wa, v)] } } := rfl

/-! State.reporting -/

@[simp] theorem reporting_params (x : ErrorReport) : (s.reporting x).params = s.params := rfl
@[simp] theorem reporting_err (x : ErrorReport) : (s.reporting x).err = BitVec.ofNat 8 x.code := rfl
@[simp] theorem reporting_hv (x : ErrorReport) : (s.reporting x).hv = s.hv := rfl
@[simp] theorem reporting_pv (x : ErrorReport) : (s.reporting x).pv = s.pv := rfl
@[simp] theorem reporting_hd (x : ErrorReport) : (s.reporting x).hd = s.hd := rfl
@[simp] theorem reporting_gv (x : ErrorReport) : (s.reporting x).gv = s.gv := rfl
@[simp] theorem reporting_pset (x : ErrorReport) : (s.reporting x).pset = s.pset := rfl
@[simp] theorem reporting_errFld (x : ErrorReport) : (s.reporting x).errFld = BitVec.ofNat 4 x.fld := rfl
@[simp] theorem reporting_errVal (x : ErrorReport) : (s.reporting x).errVal = BitVec.ofNat 32 x.raw := rfl
@[simp] theorem reporting_counter (x : ErrorReport) : (s.reporting x).counter = s.counter := rfl
@[simp] theorem reporting_dlen (x : ErrorReport) : (s.reporting x).dlen = s.dlen := rfl
@[simp] theorem reporting_pktLen (x : ErrorReport) : (s.reporting x).pktLen = s.pktLen := rfl
@[simp] theorem reporting_f (x : ErrorReport) : (s.reporting x).f = s.f := rfl
@[simp] theorem reporting_hdr (x : ErrorReport) : (s.reporting x).hdr = s.hdr := rfl
@[simp] theorem reporting_g (x : ErrorReport) : (s.reporting x).g = s.g := rfl
@[simp] theorem reporting_pkt (x : ErrorReport) : (s.reporting x).pkt = s.pkt := rfl
@[simp] theorem reporting_dbuf (x : ErrorReport) : (s.reporting x).dbuf = s.dbuf := rfl
@[simp] theorem reporting_epoch (x : ErrorReport) : (s.reporting x).epoch = s.epoch := rfl
@[simp] theorem reporting_pktEpoch (x : ErrorReport) : (s.reporting x).pktEpoch = s.pktEpoch := rfl
@[simp] theorem reporting_port (x : ErrorReport) : (s.reporting x).port = s.port := rfl

/-! State.resetEvent (70_reset_and_hazards.md R147, R148) -/

@[simp] theorem resetEvent_params : (s.resetEvent).params = s.params := rfl
@[simp] theorem resetEvent_err : (s.resetEvent).err = 0x00 := rfl
@[simp] theorem resetEvent_hv : (s.resetEvent).hv = false := rfl
@[simp] theorem resetEvent_pv : (s.resetEvent).pv = false := rfl
@[simp] theorem resetEvent_hd : (s.resetEvent).hd = false := rfl
@[simp] theorem resetEvent_gv : (s.resetEvent).gv = false := rfl
@[simp] theorem resetEvent_pset : (s.resetEvent).pset = false := rfl
@[simp] theorem resetEvent_errFld : (s.resetEvent).errFld = 0 := rfl
@[simp] theorem resetEvent_errVal : (s.resetEvent).errVal = 0 := rfl
@[simp] theorem resetEvent_counter : (s.resetEvent).counter = 0 := rfl
@[simp] theorem resetEvent_dlen : (s.resetEvent).dlen = 0 := rfl
@[simp] theorem resetEvent_pktLen : (s.resetEvent).pktLen = 0 := rfl
@[simp] theorem resetEvent_f : (s.resetEvent).f = { toHeaderConfig := HeaderConfig.zero, frame := 0 } := rfl
@[simp] theorem resetEvent_hdr : (s.resetEvent).hdr = Vector.replicate 28 0 := rfl
@[simp] theorem resetEvent_g : (s.resetEvent).g = HeaderConfig.zero := rfl
@[simp] theorem resetEvent_pkt : (s.resetEvent).pkt = [] := rfl
@[simp] theorem resetEvent_dbuf : (s.resetEvent).dbuf = [] := rfl
@[simp] theorem resetEvent_epoch : (s.resetEvent).epoch = s.epoch + 1 := rfl
@[simp] theorem resetEvent_pktEpoch : (s.resetEvent).pktEpoch = s.pktEpoch + 1 := rfl
@[simp] theorem resetEvent_port : (s.resetEvent).port = s.port := rfl

end Sys2Proof.Machine
end

