-- ==== Sys2Proof/Laws/Commands.lean ====
section
/-! SUPPORT. What a command can do, said once: exec completes a body, and a body that reaches `ok` is one of the cases of
`body_ok_cases`. Later proofs cite these instead of unfolding the meanings. -/

namespace Sys2Proof.Machine

/-- The body that each command completes. -/
def bodyOf (i : Instr) (s : State) : Except Failure State :=
  match i with
  | .nop            => .ok s
  | .encode         => encodeBody s
  | .decode         => decodeBody s
  | .pktCreate      => pktCreateBody s
  | .pktAttach      => pktAttachBody s
  | .pktDecode      => pktDecodeBody s
  | .loadDefaults t => loadDefaultsBody t s
  | .build          => buildBody s
  | .genCreate      => genCreateBody s

/-- Every command is one indivisible step that answers a next state (00_scope.md R12). -/
theorem exec_eq_complete (i : Instr) (s : State) : exec i s = .next (s.complete (bodyOf i s)) := by
  cases i <;> rfl

@[simp] theorem complete_ok (s t : State) : s.complete (.ok t) = t.succeed := rfl
@[simp] theorem complete_error (s : State) (e : Failure) : s.complete (.error e) = s.raise e := rfl

/-- A named error is never code 0x00, and every code and field is one of 60_exceptions.md R127 and R128. -/
theorem errCode_bounds (e : Err) : errCode e ≠ 0x00 ∧ (errCode e).toNat ≤ 0x0A := by cases e <;> decide
theorem fldCode_bounds (f : Fld) : fldCode f ≠ 0 ∧ (fldCode f).toNat ≤ 12 := by cases f <;> decide

/-- No command reads or writes the outside world: with another one, its body gives the same block. -/
theorem bodyOf_withPort (i : Instr) (s : State) (p : Port) :
    bodyOf i (s.withPort p) = (bodyOf i s).map fun t => t.withPort p := by
  cases i with
  | nop => rfl
  | encode =>
    simp only [bodyOf, encodeBody, withPort_params, withPort_f]
    cases validate s.params.reg s.f.toHeaderConfig <;> rfl
  | decode =>
    simp only [bodyOf, decodeBody, withPort_params, withPort_hdr]
    cases unpack s.params.reg s.hdr <;> rfl
  | pktCreate => simp only [bodyOf, pktCreateBody, apply_ite (Except.map fun t : State => t.withPort p)]; rfl
  | pktAttach => simp only [bodyOf, pktAttachBody, apply_ite (Except.map fun t : State => t.withPort p)]; rfl
  | pktDecode =>
    have hh : (s.withPort p).dbufHeader = s.dbufHeader := rfl
    simp only [bodyOf, pktDecodeBody, apply_ite (Except.map fun t : State => t.withPort p), withPort_params, hh]
    cases unpack s.params.reg s.dbufHeader <;> rfl
  | loadDefaults q =>
    simp only [bodyOf, loadDefaultsBody, withPort_params]
    cases defaults s.params.reg q <;> rfl
  | build =>
    simp only [bodyOf, buildBody, apply_ite (Except.map fun t : State => t.withPort p), withPort_params, withPort_f]
    cases validate s.params.reg s.f.toHeaderConfig <;> rfl
  | genCreate => simp only [bodyOf, genCreateBody, apply_ite (Except.map fun t : State => t.withPort p)]; rfl

theorem complete_withPort (s : State) (p : Port) (b : Except Failure State) :
    (s.withPort p).complete (b.map fun t => t.withPort p) = (s.complete b).withPort p := by
  cases b <;> rfl

/-- All that a command which reaches `ok` can have done, with the conditions under which it does. -/
theorem body_ok_cases {i : Instr} {s t : State} (h : bodyOf i s = .ok t) :
    (i = .nop ∧ t = s) ∨
    (i = .encode ∧ Encodable s.params.reg s.f.toHeaderConfig ∧ t = s.headerProduced (pack s.f)) ∨
    (i = .decode ∧ Decodable28 s.params.reg s.hdr ∧
      t = (s.writeFields (headerFields s.hdr)).headerProduced s.hdr) ∨
    (i = .pktCreate ∧ s.hv = true ∧
      t = { s.setPacket s.hdr.toList with pv := true, hd := false }) ∨
    (i = .pktAttach ∧ s.pv = true ∧ s.hd = false ∧ s.dlen.toNat ≤ 1408 ∧
      t = { s.setPacket (s.pktBytes 28 ++ s.dbufBytes s.dlen.toNat) with hd := true }) ∨
    (i = .pktDecode ∧ 28 ≤ s.dlen.toNat ∧ s.dlen.toNat ≤ 1436 ∧ Decodable28 s.params.reg s.dbufHeader ∧
      t = { ((s.headerProduced s.dbufHeader).writeFields (headerFields s.dbufHeader)).setPacket
              (s.dbufBytes s.dlen.toNat) with pv := true, hd := true }) ∨
    (∃ p d, i = .loadDefaults p ∧ defaults s.params.reg p = .ok d ∧ t = s.writeFields (genFields d s.f.frame)) ∨
    (i = .build ∧ s.pset = true ∧ Encodable s.params.reg s.f.toHeaderConfig ∧
      t = { s with g := s.f.toHeaderConfig, counter := 0, gv := true }) ∨
    (i = .genCreate ∧ s.gv = true ∧
      t = { s.headerProduced (pack (genFields s.g s.counter)) with counter := s.counter + 1 }) := by
  cases i with
  | nop => exact .inl ⟨rfl, by cases h; rfl⟩
  | encode =>
    refine .inr (.inl ⟨rfl, ?_⟩)
    rcases validate_spec s.params.reg s.f.toHeaderConfig with ⟨hv, he⟩ | ⟨e, hv, -⟩
    · simp only [bodyOf, encodeBody, hv] at h
      cases h; exact ⟨he, rfl⟩
    · simp only [bodyOf, encodeBody, hv] at h; cases h
  | decode =>
    refine .inr (.inr (.inl ⟨rfl, ?_⟩))
    rcases unpack_spec s.params.reg s.hdr with ⟨hv, he⟩ | ⟨e, hv, -⟩
    · simp only [bodyOf, decodeBody, hv] at h
      cases h; exact ⟨he, rfl⟩
    · simp only [bodyOf, decodeBody, hv] at h; cases h
  | pktCreate =>
    refine .inr (.inr (.inr (.inl ⟨rfl, ?_⟩)))
    by_cases hv : s.hv = true
    · simp only [bodyOf, pktCreateBody, hv, Bool.not_true, Bool.false_eq_true, if_false] at h
      cases h; exact ⟨hv, by simp [hv]⟩
    · simp only [bodyOf, pktCreateBody, Bool.eq_false_iff.2 hv, Bool.not_false, if_true] at h; cases h
  | pktAttach =>
    refine .inr (.inr (.inr (.inr (.inl ⟨rfl, ?_⟩))))
    simp only [bodyOf, pktAttachBody] at h
    split at h
    · cases h
    · split at h
      · cases h
      · split at h
        · cases h
        · cases h
          simp_all
          omega
  | pktDecode =>
    refine .inr (.inr (.inr (.inr (.inr (.inl ⟨rfl, ?_⟩)))))
    simp only [bodyOf, pktDecodeBody] at h
    split at h
    · cases h
    · split at h
      · cases h
      · rcases unpack_spec s.params.reg s.dbufHeader with ⟨hv, he⟩ | ⟨e, hv, -⟩
        · simp only [hv] at h
          cases h; exact ⟨by omega, by omega, he, rfl⟩
        · simp only [hv] at h; cases h
  | loadDefaults p =>
    refine .inr (.inr (.inr (.inr (.inr (.inr (.inl ?_))))))
    simp only [bodyOf, loadDefaultsBody] at h
    split at h
    · cases h
    · rename_i d hd
      cases h; exact ⟨p, d, rfl, hd, rfl⟩
  | build =>
    refine .inr (.inr (.inr (.inr (.inr (.inr (.inr (.inl ⟨rfl, ?_⟩)))))))
    simp only [bodyOf, buildBody] at h
    split at h
    · cases h
    · rcases validate_spec s.params.reg s.f.toHeaderConfig with ⟨hv, he⟩ | ⟨e, hv, -⟩
      · simp only [hv] at h
        cases h; exact ⟨by simp_all, he, rfl⟩
      · simp only [hv] at h; cases h
  | genCreate =>
    refine .inr (.inr (.inr (.inr (.inr (.inr (.inr (.inr ⟨rfl, ?_⟩)))))))
    simp only [bodyOf, genCreateBody] at h
    split at h
    · cases h
    · cases h; exact ⟨by simp_all, rfl⟩

/-- A command whose body reaches `ok` ends in success. -/
theorem exec_of_ok {i : Instr} {s t : State} (h : bodyOf i s = .ok t) : exec i s = .next t.succeed := by
  rw [exec_eq_complete, h, complete_ok]

/-- A command whose body raises reports the error and leaves the rest. -/
theorem exec_of_error {i : Instr} {s : State} {e : Failure} (h : bodyOf i s = .error e) :
    exec i s = .next (s.reporting (reportOf e)) := by
  rw [exec_eq_complete, h, complete_error, raise_eq_reporting]

/-- A command that leaves error code 0x00 had a body that reached `ok` (60_exceptions.md R130). -/
theorem ok_of_err_zero {i : Instr} {s t : State} (h : exec i s = .next t) (he : t.err = 0x00) :
    ∃ u, bodyOf i s = .ok u ∧ t = u.succeed := by
  rw [exec_eq_complete] at h
  cases hb : bodyOf i s with
  | error e => rw [hb] at h; cases h; exact absurd he (errCode_bounds e.err).1
  | ok u => rw [hb] at h; cases h; exact ⟨u, rfl, rfl⟩

end Sys2Proof.Machine
end

