-- ==== Sys2Proof/Laws/Memory.lean ====
section
/-! SUPPORT. The laws of the sparse buffers PKT and DBUF: what a byte reads as after a write, and that every operation keeps
the canonical form. -/

namespace Sys2Proof.Machine

@[simp] theorem Memory.read?_nil (k : Nat) : Memory.read? [] k = none := rfl

theorem Memory.read?_cons (c : Host.Cell) (m : Memory) (k : Nat) :
    Memory.read? (c :: m) k = if c.1 = k then some c.2 else Memory.read? m k := rfl

theorem Memory.read?_append (m n : Memory) (k : Nat) :
    Memory.read? (m ++ n) k = (Memory.read? m k).or (Memory.read? n k) := by
  induction m with
  | nil => simp
  | cons c m ih =>
    simp only [List.cons_append, Memory.read?_cons, ih]
    split <;> simp

theorem Memory.read?_cells (bs : List Byte) (base k : Nat) :
    Memory.read? (Memory.cells base bs) k = if base ≤ k then bs[k - base]? else none := by
  induction bs generalizing base with
  | nil => simp [Memory.cells]
  | cons b bs ih =>
    simp only [Memory.cells, Memory.read?_cons, ih]
    by_cases h : base = k
    · simp [h]
    · by_cases h' : base ≤ k
      · obtain ⟨d, rfl⟩ : ∃ d, k = base + 1 + d := ⟨k - (base + 1), by omega⟩
        have e : base + 1 + d - base = d + 1 := by omega
        simp [h', e, show base ≠ base + 1 + d by omega]
      · simp [h, h', show ¬ base + 1 ≤ k by omega]

theorem Memory.read?_filter (m : Memory) (p : Nat → Prop) [DecidablePred p] (k : Nat) :
    Memory.read? (m.filter fun c => decide (p c.1)) k = if p k then Memory.read? m k else none := by
  induction m with
  | nil => simp
  | cons c m ih =>
    by_cases hp : p c.1
    · simp only [List.filter_cons, hp, decide_true, if_true, Memory.read?_cons, ih]
      split
      · rename_i e; subst e; simp [hp]
      · rfl
    · simp only [List.filter_cons, hp, decide_false, Bool.false_eq_true, if_false, Memory.read?_cons, ih]
      split
      · split
        · rename_i e; subst e; exact absurd ‹p _› hp
        · rfl
      · rfl

/-- What a byte reads as after a write: the written bytes in place, every other byte as before. -/
theorem Memory.read?_write (m : Memory) (base : Nat) (bs : List Byte) (k : Nat) :
    Memory.read? (Memory.write m base bs) k =
      if base ≤ k ∧ k < base + bs.length then bs[k - base]? else Memory.read? m k := by
  simp only [Memory.write, Memory.read?_append, Memory.read?_filter m (fun a => a < base),
    Memory.read?_filter m (fun a => base + bs.length ≤ a), Memory.read?_cells]
  by_cases h1 : k < base
  · simp [h1, show ¬ base ≤ k by omega, show ¬ base + bs.length ≤ k by omega]
  · by_cases h2 : k < base + bs.length
    · have hlt : k - base < bs.length := by omega
      simp [h1, h2, show base ≤ k by omega, hlt, show ¬ base + bs.length ≤ k by omega]
    · simp [h1, h2, show base ≤ k by omega, show bs.length ≤ k - base by omega, show base + bs.length ≤ k by omega]

theorem Memory.mem_cells {bs : List Byte} {base : Nat} {c : Host.Cell} (h : c ∈ Memory.cells base bs) :
    base ≤ c.1 ∧ c.1 < base + bs.length := by
  induction bs generalizing base with
  | nil => simp [Memory.cells] at h
  | cons b bs ih =>
    rcases List.mem_cons.1 h with rfl | h
    · simp
    · have := ih h; simp only [List.length_cons]; omega

theorem Memory.pairwise_cells (bs : List Byte) (base : Nat) :
    (Memory.cells base bs).Pairwise fun a b => a.1 < b.1 := by
  induction bs generalizing base with
  | nil => exact List.Pairwise.nil
  | cons b bs ih =>
    refine List.Pairwise.cons (fun c hc => ?_) (ih (base + 1))
    have := Memory.mem_cells hc
    simpa using show base < c.1 by omega

@[simp] theorem Memory.wf_nil (size : Nat) : Memory.wf size [] := by simp [Memory.wf]

/-- A write of bytes that lie inside the buffer keeps the canonical form. -/
theorem Memory.wf_write {size : Nat} {m : Memory} (hm : Memory.wf size m) {base : Nat} {bs : List Byte}
    (hb : base + bs.length ≤ size) : Memory.wf size (Memory.write m base bs) := by
  obtain ⟨hr, hs⟩ := hm
  constructor
  · refine List.pairwise_append.2 ⟨List.pairwise_append.2 ⟨hr.filter _, Memory.pairwise_cells bs base, ?_⟩,
      hr.filter _, ?_⟩
    · intro a ha b hb'
      have h1 := (List.mem_filter.1 ha).2
      have h2 := Memory.mem_cells hb'
      simp only [decide_eq_true_eq] at h1
      omega
    · intro a ha b hb'
      have h3 := (List.mem_filter.1 hb').2
      simp only [decide_eq_true_eq] at h3
      rcases List.mem_append.1 ha with ha | ha
      · have h1 := (List.mem_filter.1 ha).2
        simp only [decide_eq_true_eq] at h1
        omega
      · have h2 := Memory.mem_cells ha
        omega
  · intro c hc
    rcases List.mem_append.1 hc with hc | hc
    · rcases List.mem_append.1 hc with hc | hc
      · exact hs c (List.mem_filter.1 hc).1
      · have := Memory.mem_cells hc; omega
    · exact hs c (List.mem_filter.1 hc).1

@[simp] theorem length_dbufBytes (s : State) (n : Nat) : (s.dbufBytes n).length = n := by simp [State.dbufBytes]

theorem getElem?_dbufBytes (s : State) (n k : Nat) :
    (s.dbufBytes n)[k]? = if k < n then some (s.dbufByte k) else none := by
  by_cases h : k < n <;> simp [State.dbufBytes, h]

/-- The buffers of the reset state are in canonical form. -/
theorem reset_memories_wf : Memory.wf paramsVban.dbufCap State.reset.dbuf ∧ Memory.wf 0 State.reset.pkt :=
  ⟨Memory.wf_nil _, Memory.wf_nil _⟩

/-- PKT once the packet is set: its bytes in place, free values past them. -/
theorem pktByte_setPacket {t : State} {bs : List Byte} (hp : t.pkt = Memory.cells 0 bs) {k : Nat} (hk : k < bs.length) :
    t.pktByte k = bs[k] := by
  simp [State.pktByte, hp, Memory.read?_cells, hk]

@[simp] theorem length_pktBytes (s : State) (n : Nat) : (s.pktBytes n).length = n := by simp [State.pktBytes]

theorem getElem_pktBytes (s : State) (n k : Nat) (h : k < (s.pktBytes n).length) : (s.pktBytes n)[k] = s.pktByte k := by
  simp [State.pktBytes]

theorem getElem_dbufBytes (s : State) (n k : Nat) (h : k < (s.dbufBytes n).length) : (s.dbufBytes n)[k] = s.dbufByte k := by
  simp [State.dbufBytes]

/-- A packet just set is in canonical form, and its listed bytes are those below its length. -/
theorem Memory.wf_cells (bs : List Byte) : Memory.wf bs.length (Memory.cells 0 bs) :=
  ⟨Memory.pairwise_cells bs 0, fun c hc => by have := Memory.mem_cells hc; omega⟩

theorem Memory.isSome_read?_cells {bs : List Byte} {k : Nat} (h : k < bs.length) :
    (Memory.read? (Memory.cells 0 bs) k).isSome = true := by
  simp [Memory.read?_cells, h]

/-- DBUF in a state whose buffer is that of `s` after a write: the bytes written in place, the others as before. -/
theorem dbufByte_write {s t : State} {base : Nat} {bs : List Byte} (hd : t.dbuf = Memory.write s.dbuf base bs)
    (he : t.epoch = s.epoch) (k : Nat) :
    t.dbufByte k = if base ≤ k ∧ k < base + bs.length then (bs[k - base]?).getD 0 else s.dbufByte k := by
  simp only [State.dbufByte, hd, he, Memory.read?_write]
  split
  · rw [List.getElem?_eq_getElem (by omega)]; rfl
  · rfl

end Sys2Proof.Machine
end

