-- ==== Sys2Proof/Laws/PerInstr.lean ====
section
/-! SUPPORT. The statements made for each command as syntax. EncodedWord: the fields of its command word. -/

namespace Sys2Proof.Laws.EncodedWord

open Sys2Proof

/-- The word of a command holds its opcode in OP, its operand in ARG and 0 in RSV (30_encoding.md R85, R86). -/
def Statement (i : Instr) : Prop :=
  opField (encode i) = opcode i ∧ argField (encode i) = argument i ∧ rsvField (encode i) = 0

theorem nop : Statement .nop := by unfold Statement; decide
theorem encode : Statement .encode := by unfold Statement; decide
theorem decode : Statement .decode := by unfold Statement; decide
theorem pktCreate : Statement .pktCreate := by unfold Statement; decide
theorem pktAttach : Statement .pktAttach := by unfold Statement; decide
theorem pktDecode : Statement .pktDecode := by unfold Statement; decide
theorem loadDefaults (t : BitVec 3) : Statement (.loadDefaults t) := by unfold Statement; revert t; decide
theorem build : Statement .build := by unfold Statement; decide
theorem genCreate : Statement .genCreate := by unfold Statement; decide

end Sys2Proof.Laws.EncodedWord
end

