-- ==== Sys2Proof/Laws/Port.lean ====
section
/-! SUPPORT. The address map, and what a step of the port can do, said once. -/

namespace Sys2Proof.Machine

theorem off_wordAddr {off : Nat} (h4 : off % 4 = 0) (hlt : off < 0x4000) : 4 * (wordAddr off).toNat = off := by
  simp only [wordAddr, BitVec.toNat_ofNat]; omega

/-- The word at a register's offset is that register (20_memory.md R49). -/
theorem locate_reg (cap : Nat) (r : RegName) : locate cap (wordAddr (regOffset r)) = .reg r := by
  cases r <;> rfl

theorem regAt_none {off : Nat} (h : (0x040 ≤ off ∧ off < 0x080) ∨ 0x09C ≤ off) : regAt off = none := by
  unfold regAt
  split <;> first | rfl | omega

/-- The word `w` of a window (20_memory.md R49, R54). -/
theorem locate_buf {cap : Nat} (h4 : cap % 4 = 0) (h8 : cap ≤ 8192) (b : BufName) {w : Nat} (hw : w < b.words cap) :
    locate cap (wordAddr (bufBase b + 4 * w)) = .buf b w := by
  cases b <;> simp only [BufName.words] at hw <;> simp only [bufBase, locate] <;>
    rw [off_wordAddr (by omega) (by omega), regAt_none (by omega)] <;>
    simp only [windowAt] <;> split_ifs <;> first | omega | (simp only [Place.buf.injEq, true_and]; omega)

/-- A reserved word (20_memory.md R49). -/
theorem locate_reserved {cap : Nat} (h4 : cap % 4 = 0) (wa : BitVec 12) (h : ReservedOffset cap (4 * wa.toNat)) :
    locate cap wa = .reserved := by
  unfold ReservedOffset at h
  simp only [locate]
  rw [regAt_none (by omega)]
  have : windowAt cap (4 * wa.toNat) = none := by
    simp only [windowAt]; split_ifs <;> first | rfl | omega
  rw [this]

theorem locate_cmd (cap : Nat) : locate cap (wordAddr 0x000) = .reg .cmd := rfl

/-- A write that is not of CMD. -/
theorem portWrite_place (wa : BitVec 12) (d : Word) (s : State) (h : locate s.params.dbufCap wa ≠ .reg .cmd) :
    portWrite wa d s = .next (s.writePlace d (locate s.params.dbufCap wa)) := by
  unfold portWrite
  split
  · exact absurd ‹_› h
  · rfl

/-- A write of CMD (10_state.md R18). -/
theorem portWrite_cmd (wa : BitVec 12) (d : Word) (s : State) (h : locate s.params.dbufCap wa = .reg .cmd) :
    portWrite wa d s = issueWord d s := by
  simp only [portWrite, h]

/-- All that a step can do: rest, a reset, a grant that passes, a read, a write that is not of CMD, an illegal word, or a
command (20_memory.md R62). -/
theorem step_cases {s t : State} (h : step s = .next t) :
    (s.port.schedule = [] ∧ t = s) ∨
    (∃ rest, s.port.schedule = .reset :: rest ∧ t = s.takeEvent.resetEvent) ∨
    ∃ r rest, s.port.schedule = .grant r :: rest ∧
      ((s.port.nextAccess r = none ∧ t = s.takeEvent) ∨
       (∃ wa, s.port.nextAccess r = some (.read wa) ∧
          t = (s.takeAccess r).deliver r wa ((s.takeAccess r).portRead wa)) ∨
       (∃ wa d, s.port.nextAccess r = some (.write wa d) ∧ locate s.params.dbufCap wa ≠ .reg .cmd ∧
          t = (s.takeAccess r).writePlace d (locate s.params.dbufCap wa)) ∨
       (∃ wa d e, s.port.nextAccess r = some (.write wa d) ∧ locate s.params.dbufCap wa = .reg .cmd ∧
          decode d = .error e ∧ t = (s.takeAccess r).raise ⟨.illegalCommand, .command, d⟩) ∨
       (∃ wa d i, s.port.nextAccess r = some (.write wa d) ∧ locate s.params.dbufCap wa = .reg .cmd ∧
          decode d = .ok i ∧ exec i (s.takeAccess r) = .next t)) := by
  simp only [step, runNext] at h
  split at h
  · exact .inl ⟨‹_›, by cases h; rfl⟩
  · exact .inr (.inl ⟨_, ‹_›, by cases h; rfl⟩)
  · rename_i r rest hs
    refine .inr (.inr ⟨r, rest, hs, ?_⟩)
    split at h
    · exact .inl ⟨‹_›, by cases h; rfl⟩
    · rename_i a ha
      cases a with
      | read wa => exact .inr (.inl ⟨wa, ha, by cases h; rfl⟩)
      | write wa d =>
        simp only [performAccess] at h
        by_cases hc : locate s.params.dbufCap wa = .reg .cmd
        · rw [portWrite_cmd wa d (s.takeAccess r) hc, issueWord] at h
          split at h
          · exact .inr (.inr (.inr (.inr ⟨wa, d, _, ha, hc, ‹_›, h⟩)))
          · exact .inr (.inr (.inr (.inl ⟨wa, d, _, ha, hc, ‹_›, by cases h; rfl⟩)))
        · rw [portWrite_place wa d (s.takeAccess r) hc] at h
          exact .inr (.inr (.inl ⟨wa, d, ha, hc, by cases h; rfl⟩))

/-- A reset is no command and a command is no reset. -/
theorem nextCommand_of_grant {s : State} {r : Nat} {rest : List Event} (hs : s.port.schedule = .grant r :: rest) {wa : BitVec 12}
    {d : Word} (ha : s.port.nextAccess r = some (.write wa d)) (hc : locate s.params.dbufCap wa = .reg .cmd) {i : Instr}
    (hd : decode d = .ok i) : s.nextCommand = some i := by
  simp only [State.nextCommand, hs, ha, hc, if_true, hd]

/-- What no host write changes (20_memory.md R52): all but the field registers, DLEN, HDR, DBUF, HV and PSET. -/
theorem writePlace_frame (s : State) (d : Word) (p : Place) :
    (s.writePlace d p).params = s.params ∧ (s.writePlace d p).port = s.port ∧ (s.writePlace d p).epoch = s.epoch ∧
    (s.writePlace d p).err = s.err ∧ (s.writePlace d p).errFld = s.errFld ∧ (s.writePlace d p).errVal = s.errVal ∧
    (s.writePlace d p).pv = s.pv ∧ (s.writePlace d p).hd = s.hd ∧ (s.writePlace d p).gv = s.gv ∧
    (s.writePlace d p).g = s.g ∧ (s.writePlace d p).counter = s.counter ∧
    (s.writePlace d p).pkt = s.pkt ∧ (s.writePlace d p).pktLen = s.pktLen ∧ (s.writePlace d p).pktEpoch = s.pktEpoch := by
  cases p with
  | reg r => cases r <;> simp [State.writePlace, State.writeReg, State.hostWroteProto]
  | buf b w =>
    cases b <;> simp [State.writePlace, State.writeBuf, State.hostWroteHdr, State.writeDbufWord]
  | reserved => simp [State.writePlace]

/-- A write of HDR clears HV; no other host write changes HV or HDR (10_state.md R37). -/
theorem writePlace_header (s : State) (d : Word) (p : Place) :
    (s.writePlace d p).hv = false ∨ ((s.writePlace d p).hv = s.hv ∧ (s.writePlace d p).hdr = s.hdr) := by
  cases p with
  | reg r => cases r <;> simp [State.writePlace, State.writeReg, State.hostWroteProto]
  | buf b w =>
    cases b <;> simp [State.writePlace, State.writeBuf, State.hostWroteHdr, State.writeDbufWord]
  | reserved => simp [State.writePlace]

/-- A window word that an address names lies in its window (20_memory.md R49). -/
theorem locate_buf_bound {cap : Nat} {wa : BitVec 12} {b : BufName} {w : Nat} (h4 : cap % 4 = 0)
    (h : locate cap wa = .buf b w) : w < b.words cap := by
  simp only [locate] at h
  split at h
  · cases h
  · split at h
    · rename_i b' hw
      cases h
      simp only [windowAt] at hw
      split_ifs at hw <;> cases hw <;> simp only [bufBase, BufName.words] <;> omega
    · cases h

/-- A host write keeps the canonical form of DBUF. -/
theorem writePlace_dbuf_wf {s : State} (h4 : s.params.dbufCap % 4 = 0) (hd : Memory.wf s.params.dbufCap s.dbuf) (d : Word)
    (wa : BitVec 12) : Memory.wf s.params.dbufCap (s.writePlace d (locate s.params.dbufCap wa)).dbuf := by
  cases h : locate s.params.dbufCap wa with
  | reg r => cases r <;> simpa [State.writePlace, State.writeReg, State.hostWroteProto] using hd
  | buf b w =>
    have hw := locate_buf_bound h4 h
    cases b
    case dbuf =>
      simp only [BufName.words] at hw
      exact Memory.wf_write hd (by simp only [List.length_cons, List.length_nil]; omega)
    all_goals simpa [State.writePlace, State.writeBuf, State.hostWroteHdr] using hd
  | reserved => simpa [State.writePlace] using hd

/-! ### Accesses in a row -/

theorem runAccesses_append (as bs : List Access) (s : State) :
    runAccesses (as ++ bs) s =
      match runAccesses as s with
      | .next t    => runAccesses bs t
      | .fault r   => .fault r
      | .refused r => .refused r := by
  induction as generalizing s with
  | nil => rfl
  | cons a as ih =>
    simp only [List.cons_append, runAccesses]
    cases performAccess 0 a s <;> simp [ih]

/-- A `WR` of a register but CMD (30_encoding.md R92). -/
theorem performAccess_wr_reg {s : State} {r : RegName} (h : r ≠ .cmd) (v : Word) :
    performAccess 0 (asmWr (.reg r) v) s = .next (s.writeReg v r) := by
  have hl : locate s.params.dbufCap (targetAddr (.reg r)) = .reg r := locate_reg _ r
  simp only [performAccess, asmWr]
  rw [portWrite_place _ _ _ (by rw [hl]; simpa using h), hl]
  rfl

/-- A `WR` of a window word (30_encoding.md R92). -/
theorem performAccess_wr_buf {s : State} (h4 : s.params.dbufCap % 4 = 0) (h8 : s.params.dbufCap ≤ 8192) {b : BufName}
    {w : Nat} (hw : w < b.words s.params.dbufCap) (v : Word) :
    performAccess 0 (asmWr (.buf b w) v) s = .next (s.writeBuf v w b) := by
  have hl : locate s.params.dbufCap (targetAddr (.buf b w)) = .buf b w := locate_buf h4 h8 b hw
  simp only [performAccess, asmWr]
  rw [portWrite_place _ _ _ (by rw [hl]; simp), hl]
  rfl

end Sys2Proof.Machine
end

