-- ==== Sys2Proof/Tests/Slice0.lean ====
section
/-! SUPPORT. The model's own tests. Expected values are those of the vectors T<n> of spec/95_test_vectors.md, which stem from
the rules and from no run. First the encodings and the checks, then one step of each command and of the port, then one
concrete witness for the hypotheses of each obligation that has some. -/

namespace Sys2Proof.Tests

open Sys2Proof Sys2Proof.Machine

/-! ### Building small states, and reading them -/

/-- The bytes of words written one after the other, the first byte of each the most significant. -/
def bytesOf {n : Nat} (ws : List Nat) : Vector Byte n :=
  Vector.ofFn fun i => laneByte (BitVec.ofNat 32 (ws.getD (i.val / 4) 0)) (i.val % 4)

/-- The words of a window, as reads show them. -/
def wordsOf (b : BufName) (n : Nat) (s : State) : List Nat := (List.range n).map fun w => (s.readPlace (.buf b w)).toNat

def report (s : State) : Nat × Nat × Nat := (s.err.toNat, s.errFld.toNat, s.errVal.toNat)

def statusNat (s : State) : Nat := (s.portRead (wordAddr 0x004)).toNat

/-- What a field of the next state holds, if there is a next state. -/
def after {α : Type} (o : Host.Outcome State Fault Refusal) (view : State → α) : Option α :=
  match o with
  | .next t => some (view t)
  | .fault _ | .refused _ => none

def nameStream : Vector Byte 16 := bytesOf [0x53747265, 0x616D3100]
def nameMidi : Vector Byte 16 := bytesOf [0x4D494449, 0x31000000]

/-- The Audio defaults of E1 and the Serial defaults of E2. -/
def audioFields : Fields := ⟨⟨0, 3, 256, 2, 1, 0, 7, nameStream⟩, 0⟩
def serialFields : Fields := ⟨⟨1, 18, 1, 1, 0, 0, 5, nameMidi⟩, 0x12345678⟩

/-- The header words of T1. -/
def t1Words : List Nat := [0x5642414E, 0x03FF0101, 0x53747265, 0x616D3100, 0, 0, 0]

def withFields (f : Fields) : State := { State.reset with f := f, pset := true }
def withHeader (ws : List Nat) : State := { State.reset with hdr := bytesOf ws }

/-- The header of T1 in place and valid. -/
def headerReady : State := { withFields audioFields with hdr := bytesOf t1Words, hv := true }

/-- The envelope E1 of section 4, with DBUF holding the words given and DLEN. -/
def openEnvelope (ws : List Nat) (n : Nat) : State :=
  { headerReady with
    pkt := Memory.cells 0 headerReady.hdr.toList, pktLen := 28, pktEpoch := 1, pv := true, dlen := BitVec.ofNat 16 n
    dbuf := Memory.cells 0 (bytesOf (n := 4 * ws.length) ws).toList }

/-- DBUF holding the words given, and DLEN. -/
def received (ws : List Nat) (n : Nat) : State :=
  { State.reset with dbuf := Memory.cells 0 (bytesOf (n := 4 * ws.length) ws).toList, dlen := BitVec.ofNat 16 n }

def builtGenerator : State := { withFields audioFields with g := audioFields.toHeaderConfig, gv := true }

/-- A port whose requester 0 issues `as`, each taken in its turn. -/
def portOf (as : List Access) : Port where
  requesters := [{ program := as, returned := [] }, { program := [], returned := [] }]
  schedule   := as.map fun _ => .grant 0

/-! ### The command word -/

/-- RSV, ARG and OP written out bit by bit from 30_encoding.md R85 and R86. -/
theorem test_decode_nop : decode 0b000000000000000000000_000_00000000 = .ok .nop := by decide
theorem test_decode_encode : decode 0b000000000000000000000_000_00000001 = .ok .encode := by decide
theorem test_decode_decode : decode 0b000000000000000000000_000_00000010 = .ok .decode := by decide
theorem test_decode_pktCreate : decode 0b000000000000000000000_000_00000011 = .ok .pktCreate := by decide
theorem test_decode_pktAttach : decode 0b000000000000000000000_000_00000100 = .ok .pktAttach := by decide
theorem test_decode_pktDecode : decode 0b000000000000000000000_000_00000101 = .ok .pktDecode := by decide
theorem test_decode_loadDefaults : decode 0b000000000000000000000_110_00000110 = .ok (.loadDefaults 6) := by decide
theorem test_decode_build : decode 0b000000000000000000000_000_00000111 = .ok .build := by decide
theorem test_decode_genCreate : decode 0b000000000000000000000_000_00001000 = .ok .genCreate := by decide

/-- T81 to T84: the illegal words, each refused by name. -/
theorem test_decode_illegal :
    decode 0x00000009 = .error .opcode ∧ decode 0x000000FF = .error .opcode ∧ decode 0x00000101 = .error .argument ∧
      decode 0x00000800 = .error .reservedBits ∧ decode 0x80000006 = .error .reservedBits := by decide

/-! ### The well-formedness checks, each with a term it refuses -/

theorem test_wf_target_window : (Target.buf .hdr 6).wf 2048 = true ∧ (Target.buf .hdr 7).wf 2048 = false ∧
    (Target.buf .fName 4).wf 2048 = false ∧ (Target.buf .gName 4).wf 2048 = false ∧
    (Target.buf .pkt 359).wf 2048 = false ∧ (Target.buf .pld 352).wf 2048 = false ∧
    (Target.buf .dbuf 511).wf 2048 = true ∧ (Target.buf .dbuf 512).wf 2048 = false := by decide
theorem test_wf_target_offset : (Target.offset 0x3FFC).wf 2048 = true ∧ (Target.offset 0x4000).wf 2048 = false ∧
    (Target.offset 0x06E).wf 2048 = false := by decide
theorem test_wf_stmt_wr : (Stmt.wr (.buf .hdr 7) 0).wf 2048 = false ∧ (Stmt.rd (.offset 0x4000)).wf 2048 = false := by
  decide
theorem test_wf_stmt_rdPkt : (Stmt.rdPkt 1436).wf 2048 = true ∧ (Stmt.rdPkt 1437).wf 2048 = false := by decide
theorem test_wf_stmt_ldBuf : (Stmt.ldBuf [0, 0]).wf 2 = true ∧ (Stmt.ldBuf [0, 0, 0]).wf 2 = false := by decide
theorem test_wf_registry : registryVban.wf = true ∧ { registryVban with defSr := 2 }.wf = false ∧
    { registryVban with defBps := 17 }.wf = false ∧ { registryVban with defAfmt := 0 }.wf = false ∧
    { registryVban with defSfmt := 1 }.wf = false ∧ { registryVban with defTfmt := 1 }.wf = false := by decide
theorem test_wf_params : paramsVban.wf = true ∧ { paramsVban with dbufCap := 2049 }.wf = false ∧
    { paramsVban with dbufCap := 1436 }.wf = false ∧ { paramsVban with dbufCap := 8196 }.wf = false ∧
    { paramsVban with reg := { registryVban with defSr := 2 } }.wf = false := by decide

/-! ### One step of each command -/

/-- T80. -/
theorem test_nop_clears_errors :
    after (exec .nop { State.reset with err := 0x01, errFld := 1, errVal := 0x5842414E }) report = some (0, 0, 0) := by
  decide

/-- T2: byte 4 packs the tag over the rate; the frame is big-endian. -/
theorem test_encode_serial :
    after (exec .encode (withFields serialFields)) (fun t => (wordsOf .hdr 7 t, statusNat t)) =
      some ([0x5642414E, 0x32000000, 0x4D494449, 0x31000000, 0, 0, 0x12345678], 0x1100) := by decide

/-- T17: the codec nibble is ORed over format bit 4. -/
theorem test_encode_user_codec :
    after (exec .encode (withFields { audioFields with codec := 0xF })) (fun t => (wordsOf .hdr 2 t, report t)) =
      some ([0x5642414E, 0x03FF01F1], (0, 0, 0)) := by decide

/-- T32 (c) and T35: a name whose last byte alone is not 0x00, and the frame's top bit. -/
theorem test_decode_name_and_frame :
    after (exec .decode (withHeader [0x5642414E, 0x03FF0121, 0, 0, 0, 0x000000FF, 0x80000001]))
        (fun t => (t.f.samp.toNat, t.f.chan.toNat, t.f.codec.toNat, t.f.namelen.toNat, t.f.frame.toNat, statusNat t)) =
      some (256, 2, 2, 16, 0x80000001, 0x1100) := by decide

/-- T30: U5 masks the format's five bits. -/
theorem test_decode_user_codec_fails :
    after (exec .decode (withHeader [0x5642414E, 0x03FF01F1])) (fun t => (report t, t.hv, t.pset)) =
      some ((0x03, 6, 0x11), false, false) := by decide

/-- T41. -/
theorem test_pktCreate :
    after (exec .pktCreate headerReady) (fun t => (wordsOf .pkt 8 t, t.pldLen.toNat, statusNat t)) =
      some (t1Words ++ [0], 0, 0x1300) := by decide

/-- T48: five bytes of payload; the bytes past PKTLEN read 0x00. -/
theorem test_pktAttach_five_bytes :
    after (exec .pktAttach (openEnvelope [0xAABBCCDD, 0xEE112233] 5))
        (fun t => (t.pktLen.toNat, t.pldLen.toNat, (wordsOf .pkt 10 t).drop 7, wordsOf .pld 3 t, statusNat t)) =
      some (33, 5, [0xAABBCCDD, 0xEE000000, 0], [0xAABBCCDD, 0xEE000000, 0], 0x1700) := by decide

/-- T44: A2, with the packet's length as the raw value. -/
theorem test_pktAttach_twice :
    after (exec .pktAttach { openEnvelope [] 2000 with hd := true, pktLen := 36 }) report = some (0x05, 10, 36) := by decide

/-- P3: a Serial packet with four bytes of payload. -/
theorem test_pktDecode :
    after (exec .pktDecode
        (received [0x5642414E, 0x32000000, 0x4D494449, 0x31000000, 0, 0, 7, 0x903C7F00] 32))
        (fun t => (wordsOf .pkt 9 t, wordsOf .pld 2 t, t.f.tag.toNat, t.f.rate.toNat, t.f.namelen.toNat, statusNat t)) =
      some ([0x5642414E, 0x32000000, 0x4D494449, 0x31000000, 0, 0, 7, 0x903C7F00, 0], [0x903C7F00, 0], 1, 18, 5,
        0x1700) := by decide

/-- T50: a length above 1436 stops before DBUF is read. -/
theorem test_pktDecode_too_long : after (exec .pktDecode (received [] 0xFFFF)) report = some (0x06, 8, 0xFFFF) := by decide

/-- T61, with FFRAME untouched. -/
theorem test_loadDefaults_serial :
    after (exec (.loadDefaults 1) { State.reset with f := { audioFields with frame := 9 } })
        (fun t => (t.f, statusNat t)) = some ({ serialFields with frame := 9 }, 0x1000) := by decide

/-- T64 and T63. -/
theorem test_loadDefaults_gates :
    after (exec (.loadDefaults 7) State.reset) report = some (0x04, 2, 7) ∧
      after (exec (.loadDefaults 3) State.reset) (fun t => (report t, t.pset)) = some ((0x02, 2, 3), false) := by decide

/-- T66 and T72: the copy, and COUNTER back to 0. -/
theorem test_build :
    after (exec .build { withFields audioFields with counter := 2 }) (fun t => (t.g, t.counter.toNat, statusNat t)) =
      some (audioFields.toHeaderConfig, 0, 0x1800) := by decide

/-- T67: V2 once B1 has passed. -/
theorem test_build_service : after (exec .build (withFields { audioFields with tag := 3 })) report = some (0x02, 2, 3) := by
  decide

/-- T71: the header carries the old COUNTER, which wraps; FFRAME is not used. -/
theorem test_genCreate_wrap :
    after (exec .genCreate { builtGenerator with counter := 0xFFFFFFFF })
        (fun t => ((wordsOf .hdr 7 t).drop 6, t.counter.toNat, t.f.frame.toNat, statusNat t)) =
      some ([0xFFFFFFFF], 0, 0, 0x1900) := by decide

/-! ### The port -/

/-- T83: the ENCODE does not run. -/
theorem test_port_illegal_word :
    after (portWrite (wordAddr 0x000) 0x00000101 headerReady) (fun t => (report t, t.hv)) =
      some ((0x0A, 12, 0x101), true) := by decide

/-- T86 and T87: the bits outside a field are ignored. -/
theorem test_port_write_masks :
    after (portWrite (wordAddr 0x020) 0xFFFFFFFF State.reset) (fun t => ((t.portRead (wordAddr 0x020)).toNat, statusNat t)) =
        some (7, 0x1000) ∧
      after (portWrite (wordAddr 0x028) 0x00012345 State.reset) (fun t => (t.portRead (wordAddr 0x028)).toNat) =
        some 0x2345 := by decide

/-- T37: a write of HDR clears HV whatever it writes. -/
theorem test_port_hdr_write_clears_hv :
    after (portWrite (wordAddr 0x068) 0 headerReady) (fun t => (t.hv, wordsOf .hdr 7 t)) = some (false, t1Words) := by decide

/-- T88: a read-only register and a reserved word ignore a write. -/
theorem test_port_write_ignored :
    portWrite (wordAddr 0x018) 5 State.reset = .next State.reset ∧
      portWrite (wordAddr 0x06C) 1 State.reset = .next State.reset ∧ State.reset.portRead (wordAddr 0x06C) = 0 :=
  ⟨rfl, rfl, rfl⟩

/-- A step takes one access of the requester the schedule names and gives it the word read (P1: STATUS after reset). -/
theorem test_step_read :
    after (step { builtGenerator with port := portOf [.read (wordAddr 0x004)] })
        (fun t => t.port.requesters.map fun q => (q.program.length, q.returned)) =
      some [(0, [(wordAddr 0x004, 0x1800)]), (0, [])] := by decide

/-- R148: a reset in mid run. -/
theorem test_step_reset :
    after (step { headerReady with port := { (portOf []) with schedule := [.reset] } })
        (fun t => (t.hdr, t.f.samp.toNat, t.epoch, statusNat t)) = some (bytesOf [], 0, 1, 0) := by decide

/-! ### Witnesses: concrete states and operands that meet the hypotheses of the obligations -/

theorem encodable_of {reg : Registry} {c : HeaderConfig} (h : validate reg c = .ok ()) : Encodable reg c :=
  (validate_ok_iff reg c).1 h

theorem decodable_of {reg : Registry} {h : Vector Byte 28} (e : unpack reg h = .ok (headerFields h)) : Decodable28 reg h :=
  (unpack_ok_iff reg h).1 e

theorem encodeGate_of {reg : Registry} {c : HeaderConfig} {e : Failure} (h : validate reg c = .error e) :
    EncodeGate reg c (reportOf e) := by
  rcases validate_spec reg c with ⟨h', -⟩ | ⟨e', h', g, -⟩
  · rw [h] at h'; cases h'
  · rw [h] at h'; cases h'; exact g

theorem decodeGate_of {reg : Registry} {h : Vector Byte 28} {e : Failure} (u : unpack reg h = .error e) :
    DecodeGate reg h (reportOf e) := by
  rcases unpack_spec reg h with ⟨u', -⟩ | ⟨e', u', g, -⟩
  · rw [u] at u'; cases u'
  · rw [u] at u'; cases u'; exact g

theorem keepsGenerator_next {k : Nat} {s t : State} (h1 : s.nextCommand ≠ some .build) (h2 : s.nextIsReset = false)
    (h3 : step s = .next t) (h4 : keepsGenerator k t) : keepsGenerator (k + 1) s :=
  ⟨h1, h2, fun u hu => by rw [h3] at hu; cases hu; exact h4⟩

theorem reached_run {k : Nat} {s t : State} (hs : Reached s) (h : Host.Core.run Sys2Proof.core k s = .next t) :
    Reached t := by
  induction k generalizing s with
  | zero => cases h; exact hs
  | succ k ih =>
    simp only [Host.Core.run] at h
    split at h
    · exact ih (.next s _ hs ‹_›) h
    · cases h
    · cases h

theorem witness_EveryCommandHasOneWord : (Instr.loadDefaults 7).wf = true ∧ Instr.genCreate.wf = true := by decide

/-- T84, T81, T82, T83: one word for each way to be illegal, at the ends of the ranges. -/
theorem witness_IllegalCommandWordsRaise :
    (0x00000800#32).toNat / 2 ^ 11 ≠ 0 ∧ (0x80000006#32).toNat / 2 ^ 11 ≠ 0 ∧ 9 ≤ (0x00000009#32).toNat % 2 ^ 8 ∧
      9 ≤ (0x000000FF#32).toNat % 2 ^ 8 ∧
      ((0x00000101#32).toNat / 2 ^ 8 % 8 ≠ 0 ∧ (0x00000101#32).toNat % 2 ^ 8 ≠ 6) ∧
      ((0x00000708#32).toNat / 2 ^ 8 % 8 ≠ 0 ∧ (0x00000708#32).toNat % 2 ^ 8 ≠ 6) := by decide

/-- A command word, and a write that runs none (the FSAMP register). -/
theorem witness_StepRunsTheDecodedCommand :
    let s := { headerReady with port := portOf [.write (wordAddr 0x000) 0x00000003] }
    let s' := { headerReady with port := portOf [.write (wordAddr 0x028) 64] }
    (s.port.schedule = .grant 0 :: [] ∧ s.port.nextAccess 0 = some (.write (wordAddr 0x000) 0x00000003) ∧
      decode 0x00000003 = .ok .pktCreate) ∧
    s'.port.schedule = .grant 0 :: [] ∧ s'.port.nextAccess 0 = some (.write (wordAddr 0x028) 64) := by decide

theorem witness_PlacedWordRunsNext :
    State.reset.port.requesters ≠ [] ∧ decodeTableWord 32 0x00000706 = some (.loadDefaults 7) := by decide

theorem witness_ReadStepChangesNothing :
    let s := { headerReady with port := portOf [.read (wordAddr 0x050)] }
    s.port.schedule = .grant 0 :: [] ∧
      s.port.requesters[0]? = some { program := [.read (wordAddr 0x050)], returned := [] } := by decide

theorem witness_ResetEventSetsEveryElement :
    { headerReady with port := { portOf [] with schedule := [.reset] } }.port.schedule = .reset :: [] := by decide

/-- A registry that meets R8 and has no entry at index 0 of SR_TABLE. -/
def registryNoRate0 : Registry := { registryVban with srTable := registryVban.srTable.set 0 none }

theorem witness_CommandsAfterReset :
    paramsVban.wf = true ∧ HasEntry paramsVban.reg.srTable 0 ∧ { paramsVban with reg := registryNoRate0 }.wf = true ∧
      ¬ HasEntry registryNoRate0.srTable 0 ∧
      { headerReady with port := { portOf [] with schedule := [.reset] } }.port.schedule = .reset :: [] ∧
      (2#3).toNat < 3 ∧ (3#3).toNat = 3 ∧ 4 ≤ (4#3).toNat := by
  refine ⟨by decide, ⟨6000, by decide⟩, by decide, ?_, by decide⟩
  rintro ⟨e, he⟩
  have h : registryNoRate0.srTable[0]? = some none := by decide
  rw [h] at he
  cases he

theorem witness_RegisterReads :
    (headerReady.pv = false) ∧ (openEnvelope [] 0).pv = true ∧ 28 ≤ (openEnvelope [] 0).pktLen.toNat := by decide

theorem witness_RegisterWrites :
    fieldWidth .fProto = some 3 ∧ fieldWidth .fFrame = some 32 ∧ fieldWidth .dlen = some 16 ∧
      fieldWidth .status = none ∧ RegName.status ≠ .cmd := by decide

/-- The first and the last word of every reserved range. -/
theorem witness_ReservedWordsReadZeroAndIgnoreWrites :
    ∀ off ∈ [0x06C, 0x07C, 0x09C, 0x0B0, 0x7FC, 0xD9C, 0xFFC, 0x1580, 0x1FFC, 0x2800, 0x3FFC],
      paramsVban.wf = true ∧ ReservedOffset 2048 (4 * (wordAddr off).toNat) := by
  unfold ReservedOffset; decide

theorem witness_DbufWindow :
    State.reset.params.wf = true ∧ 0 < State.reset.params.dbufCap / 4 ∧ 511 < State.reset.params.dbufCap / 4 := by decide

theorem witness_TargetsReachTheirPlaces :
    2048 % 4 = 0 ∧ 2048 ≤ 8192 ∧ 8192 % 4 = 0 ∧ 8192 ≤ 8192 ∧ (Target.buf .pkt 358).wf 2048 = true ∧
      (Target.buf .dbuf 2047).wf 8192 = true ∧ (Target.offset 0).wf 2048 = true ∧ (Target.offset 0x3FFC).wf 2048 = true := by
  decide

theorem witness_PseudoInstructionsPlaceTheirData :
    State.reset.params.wf = true ∧ (List.replicate 2048 (0xFF : Byte)).length ≤ State.reset.params.dbufCap ∧
      ([] : List Byte).length ≤ State.reset.params.dbufCap := ⟨by decide, by rw [List.length_replicate]; decide, by decide⟩

theorem witness_EncodeCommand_packs :
    Encodable (withFields audioFields).params.reg (withFields audioFields).f.toHeaderConfig ∧
      Encodable registryVban { audioFields.toHeaderConfig with samp := 1, chan := 256, rate := 20, fmt := 7, codec := 0xF } :=
  ⟨encodable_of (by decide), encodable_of (by decide)⟩

/-- V1 to V7 in turn, each at a boundary (T9, T8, T10, T5 and T6, T7, T12, T14). -/
theorem witness_EncodeCommand_reports :
    let a := audioFields.toHeaderConfig
    EncodeGate registryVban { a with tag := 4 } ⟨0x04, 2, 4⟩ ∧ EncodeGate registryVban { a with tag := 3 } ⟨0x02, 2, 3⟩ ∧
      EncodeGate registryVban { a with rate := 21 } ⟨0x04, 3, 21⟩ ∧
      EncodeGate registryVban { a with samp := 0 } ⟨0x04, 4, 0⟩ ∧ EncodeGate registryVban { a with samp := 257 } ⟨0x04, 4, 257⟩ ∧
      EncodeGate registryVban { a with chan := 0 } ⟨0x04, 5, 0⟩ ∧ EncodeGate registryVban { a with chan := 257 } ⟨0x04, 5, 257⟩ ∧
      EncodeGate registryVban { a with fmt := 8 } ⟨0x04, 6, 8⟩ ∧ EncodeGate registryVban { a with codec := 3 } ⟨0x04, 7, 3⟩ :=
  ⟨encodeGate_of (e := ⟨.invalidConfiguration, .protocol, 4⟩) (by decide),
   encodeGate_of (e := ⟨.unsupportedProtocol, .protocol, 3⟩) (by decide),
   encodeGate_of (e := ⟨.invalidConfiguration, .rate, 21⟩) (by decide),
   encodeGate_of (e := ⟨.invalidConfiguration, .samples, 0⟩) (by decide),
   encodeGate_of (e := ⟨.invalidConfiguration, .samples, 257⟩) (by decide),
   encodeGate_of (e := ⟨.invalidConfiguration, .channels, 0⟩) (by decide),
   encodeGate_of (e := ⟨.invalidConfiguration, .channels, 257⟩) (by decide),
   encodeGate_of (e := ⟨.invalidConfiguration, .format, 8⟩) (by decide),
   encodeGate_of (e := ⟨.invalidConfiguration, .codec, 3⟩) (by decide)⟩

theorem witness_DecodeCommand_unpacks :
    Decodable28 (withHeader t1Words).params.reg (withHeader t1Words).hdr ∧
      Decodable28 registryVban (bytesOf [0x5642414E, 0x38000000]) :=
  ⟨decodable_of (by decide), decodable_of (by decide)⟩

/-- U1 to U6 in turn (T21, T24, T23, T25, T28, T34). -/
theorem witness_DecodeCommand_reports :
    DecodeGate registryVban (bytesOf [0x5842414E]) ⟨0x01, 1, 0x5842414E⟩ ∧
      DecodeGate registryVban (bytesOf [0x5642414E, 0x83FF0101]) ⟨0x07, 2, 0x80⟩ ∧
      DecodeGate registryVban (bytesOf [0x5642414E, 0x63FF0101]) ⟨0x02, 2, 0x60⟩ ∧
      DecodeGate registryVban (bytesOf [0x5642414E, 0x15FF0101]) ⟨0x03, 3, 0x15⟩ ∧
      DecodeGate registryVban (bytesOf [0x5642414E, 0x03FF0108]) ⟨0x03, 6, 8⟩ ∧
      DecodeGate registryVban (bytesOf [0x5642414E, 0x03FF0141]) ⟨0x03, 7, 0x40⟩ :=
  ⟨decodeGate_of (e := ⟨.badMagic, .magic, 0x5842414E⟩) (by decide),
   decodeGate_of (e := ⟨.invalidHeader, .protocol, 0x80⟩) (by decide),
   decodeGate_of (e := ⟨.unsupportedProtocol, .protocol, 0x60⟩) (by decide),
   decodeGate_of (e := ⟨.invalidPacketAttribute, .rate, 0x15⟩) (by decide),
   decodeGate_of (e := ⟨.invalidPacketAttribute, .format, 8⟩) (by decide),
   decodeGate_of (e := ⟨.invalidPacketAttribute, .codec, 0x40⟩) (by decide)⟩

/-- T6 and T21: reports within the bounds of the error registers, answered; and a tuple and a header that pass. -/
theorem witness_GatesAreExhaustiveAndExclusive :
    ((0x04 ≠ 0 ∧ 0x04 < 2 ^ 8 ∧ 4 < 2 ^ 4 ∧ 257 < 2 ^ 32) ∧
      exec .encode (withFields { audioFields with samp := 257 }) =
        .next ((withFields { audioFields with samp := 257 }).reporting ⟨0x04, 4, 257⟩)) ∧
    ((0x01 ≠ 0 ∧ 0x01 < 2 ^ 8 ∧ 1 < 2 ^ 4 ∧ 0x5842414E < 2 ^ 32) ∧
      exec .decode (withHeader [0x5842414E]) = .next ((withHeader [0x5842414E]).reporting ⟨0x01, 1, 0x5842414E⟩)) ∧
    (∃ t, exec .encode (withFields audioFields) = .next t ∧ t.err = 0x00) ∧
    ∃ t, exec .decode (withHeader t1Words) = .next t ∧ t.err = 0x00 :=
  ⟨⟨by decide, by rfl⟩, ⟨by decide, by rfl⟩, ⟨_, rfl, by decide⟩, _, rfl, by decide⟩

theorem witness_SampleAndChannelSymmetry :
    (1 ≤ 1 ∧ 1 ≤ 256 ∧ serialFields.samp.toNat = 1 ∧ serialFields.chan.toNat = 1) ∧
      (1 ≤ 256 ∧ 256 ≤ 256 ∧ audioFields.samp.toNat = 256) ∧
      ∃ h f, unpack registryVban h = .ok f ∧ h[5].toNat = 256 - 1 ∧ h[6].toNat = 1 - 1 :=
  ⟨by decide, by decide, bytesOf [0x5642414E, 0x03FF0001], headerFields (bytesOf [0x5642414E, 0x03FF0001]), by decide⟩

/-- T1, T15, T16, T17: each codec in a tuple that every gate passes. -/
theorem witness_Byte7OverlapLaw :
    ∀ k ∈ [0x0#4, 0x1#4, 0x2#4, 0xF#4], Encodable registryVban { audioFields with codec := k }.toHeaderConfig := by
  intro k hk
  refine encodable_of ?_
  revert k
  decide

theorem witness_UnpackOfPackIsTheTuple :
    Encodable registryVban audioFields.toHeaderConfig ∧ audioFields.codec.toNat % 2 = audioFields.fmt.toNat / 16 :=
  ⟨encodable_of (by decide), by decide⟩

theorem witness_NameRoundTrip :
    7 = min (7#8).toNat 16 ∧ 7 = nameDecLen (nameEnc nameStream 7) ∧ 16 = min (255#8).toNat 16 ∧
      7 = nameDecLen (nameEnc nameStream 255) ∧ 0 = min (0#8).toNat 16 ∧ 0 = nameDecLen (nameEnc nameStream 0) := by decide

theorem witness_FailedCommandChangesOnlyErrorRegisters :
    ∃ t, exec .build State.reset = .next t ∧ t.err ≠ 0x00 := ⟨_, rfl, by decide⟩
theorem witness_FailedCommandFailsAgain : ∃ t, exec .encode State.reset = .next t ∧ t.err ≠ 0x00 := ⟨_, rfl, by decide⟩
theorem witness_CommandsLeaveTheHostsInputs : ∃ t, exec .pktAttach (openEnvelope [1, 2] 8) = .next t := ⟨_, rfl⟩

theorem witness_PktCreateCommand_creates : headerReady.hv = true := rfl
theorem witness_PktCreateCommand_reports : State.reset.hv = false := rfl
theorem witness_PktAttachCommand_attaches :
    (openEnvelope [] 1408).pv = true ∧ (openEnvelope [] 1408).hd = false ∧ (openEnvelope [] 1408).dlen.toNat ≤ 1408 ∧
      (openEnvelope [] 0).dlen.toNat ≤ 1408 := by decide
theorem witness_PktAttachCommand_reports :
    State.reset.pv = false ∧ ((openEnvelope [] 0).pv = true ∧ { openEnvelope [] 0 with hd := true }.hd = true) ∧
      ((openEnvelope [] 1409).pv = true ∧ (openEnvelope [] 1409).hd = false ∧ 1408 < (openEnvelope [] 1409).dlen.toNat) := by
  decide

/-- T51, and P3's header with the longest length. -/
theorem witness_PktDecodeCommand_splits :
    (∀ k : Fin 28, (bytesOf t1Words : Vector Byte 28)[k] = (received t1Words 28).dbufByte k.val) ∧
      28 ≤ (received t1Words 28).dlen.toNat ∧ (received t1Words 1436).dlen.toNat ≤ 1436 ∧
      Decodable28 (received t1Words 28).params.reg (bytesOf t1Words) :=
  ⟨by decide, by decide, by decide, decodable_of (by decide)⟩

/-- T49, T50 at its boundary, T52. -/
theorem witness_PktDecodeCommand_reports :
    (received [] 27).dlen.toNat < 28 ∧ 1436 < (received [] 1437).dlen.toNat ∧
      (∀ k : Fin 28, (bytesOf [0x5842414E, 0, 0, 0, 0, 0, 0] : Vector Byte 28)[k] =
        (received [0x5842414E, 0, 0, 0, 0, 0, 0] 28).dbufByte k.val) ∧
      28 ≤ (received [0x5842414E, 0, 0, 0, 0, 0, 0] 28).dlen.toNat ∧
      DecodeGate registryVban (bytesOf [0x5842414E, 0, 0, 0, 0, 0, 0]) ⟨0x01, 1, 0x5842414E⟩ :=
  ⟨by decide, by decide, by decide, by decide, decodeGate_of (e := ⟨.badMagic, .magic, 0x5842414E⟩) (by decide)⟩

theorem witness_PktDecodeReproducesItsInput :
    ∃ t, exec .pktDecode (received (t1Words ++ [0x01020304]) 32) = .next t ∧ t.err = 0x00 := ⟨_, rfl, by decide⟩

/-- P2 in small, with the packet copied into DBUF; and P6's header, which Pack made and Unpack rejects. -/
theorem witness_FrameThenDeframe :
    (∃ a a' b c : State, headerReady.hv = true ∧ exec .pktCreate headerReady = .next a ∧
      a' = { a with dlen := a'.dlen, dbuf := a'.dbuf } ∧ exec .pktAttach a' = .next b ∧ b.err = 0x00 ∧
      c.params = headerReady.params ∧ c.dlen.toNat = b.pktLen.toNat ∧
      ∀ k, k < b.pktLen.toNat → c.dbufByte k = b.bytesView k) ∧
    ∃ (f : Fields) (h : Vector Byte 28) (r : ErrorReport),
      Encodable registryVban f.toHeaderConfig ∧ HeaderOf f h ∧ DecodeGate registryVban h r := by
  constructor
  · refine ⟨_, { (openEnvelope [0x01020304] 4) with err := 0, errFld := 0, errVal := 0 }, _,
      received (t1Words ++ [0x01020304]) 32, rfl, rfl, rfl, rfl, by decide, rfl, by decide, ?_⟩
    intro k hk
    have hk : k < 32 := hk
    revert k
    decide
  · refine ⟨{ audioFields with codec := 1 }, pack { audioFields with codec := 1 }, _, encodable_of (by decide),
      headerOf_pack (encodable_of (reg := registryVban) (by decide)),
      decodeGate_of (e := ⟨.invalidPacketAttribute, .format, 0x11⟩) (by decide)⟩

/-- Three commands from power-on to an open envelope. -/
theorem witness_SizeCeiling : ∃ s, Reached s ∧ s.pv = true ∧ s.hd = false :=
  ⟨_, reached_run (k := 3)
    (.powerOn paramsVban (portOf [.write 0 0x00000006, .write 0 0x00000001, .write 0 0x00000003]) (by decide) (by decide))
    rfl, by decide, by decide⟩

theorem witness_SizeCeiling_second_attach :
    ∃ t u, exec .pktAttach (openEnvelope [] 0) = .next t ∧ t.err = 0x00 ∧ exec .pktAttach t = .next u :=
  ⟨_, _, rfl, by decide, rfl⟩

theorem witness_EnvelopeImmutability :
    ∃ t, step { openEnvelope [] 0 with port := portOf [.write 0 0x00000001] } = .next t ∧
      { openEnvelope [] 0 with port := portOf [.write 0 0x00000001] }.nextIsReset = false ∧
      { openEnvelope [] 0 with port := portOf [.write 0 0x00000001] }.nextCommand = some .encode := ⟨_, rfl, by decide⟩

theorem witness_LoadDefaultsCommand_loads :
    (0#3).toNat < 3 ∧ (1#3).toNat < 3 ∧ (2#3).toNat < 3 ∧ (0#3).toNat = 0 ∧ (1#3).toNat = 1 ∧ (2#3).toNat = 2 := by decide
theorem witness_LoadDefaultsCommand_reports : 4 ≤ (4#3).toNat ∧ 4 ≤ (7#3).toNat ∧ (3#3).toNat = 3 := by decide
theorem witness_DefaultsAreEncodable :
    State.reset.params.wf = true ∧ (2#3).toNat < 3 ∧ ∃ u, exec (.loadDefaults 2) State.reset = .next u :=
  ⟨by decide, by decide, _, rfl⟩

theorem witness_BuildCommand_builds :
    (withFields audioFields).pset = true ∧
      Encodable (withFields audioFields).params.reg (withFields audioFields).f.toHeaderConfig :=
  ⟨rfl, encodable_of (by decide)⟩

/-- T65 and T68. -/
theorem witness_BuildCommand_reports :
    State.reset.pset = false ∧ (withFields { audioFields with samp := 0 }).pset = true ∧
      EncodeGate registryVban { audioFields with samp := 0 }.toHeaderConfig ⟨0x04, 4, 0⟩ :=
  ⟨rfl, rfl, encodeGate_of (e := ⟨.invalidConfiguration, .samples, 0⟩) (by decide)⟩

theorem witness_GenCreateCommand_creates :
    builtGenerator.gv = true ∧ Encodable builtGenerator.params.reg builtGenerator.g := ⟨rfl, encodable_of (by decide)⟩
theorem witness_GenCreateCommand_reports : State.reset.gv = false := rfl

/-- A BUILD, then a GEN_CREATE of each requester (P5). -/
def twoProducers : State :=
  { withFields audioFields with
    port := {
      requesters := [{ program := [.write 0 0x00000007, .write 0 0x00000008], returned := [] },
                     { program := [.write 0 0x00000008], returned := [] }]
      schedule := [.grant 0, .grant 0, .grant 1] } }

theorem witness_CounterSequence :
    ∃ t u, step twoProducers = .next t ∧ twoProducers.nextCommand = some .build ∧ t.err = 0x00 ∧ keepsGenerator 2 t ∧
      Host.Core.run Sys2Proof.core 2 t = .next u ∧ framesWritten 2 t = [0, 1] :=
  ⟨_, _, rfl, by decide, by decide,
    keepsGenerator_next (by decide) (by decide) rfl (keepsGenerator_next (by decide) (by decide) rfl trivial), rfl, by decide⟩

theorem witness_ConcurrentProducersNeverShareAFrame :
    ∃ s, s.gv = true ∧ keepsGenerator 2 s ∧ framesWritten 2 s = [0xFFFFFFFF, 0] :=
  ⟨{ builtGenerator with
      counter := 0xFFFFFFFF
      port := { twoProducers.port with
        requesters := [{ program := [.write 0 0x00000008], returned := [] }, { program := [.write 0 0x00000008], returned := [] }]
        schedule := [.grant 1, .grant 0] } },
    rfl, keepsGenerator_next (by decide) (by decide) rfl (keepsGenerator_next (by decide) (by decide) rfl trivial), by decide⟩

theorem witness_GeneratorLifetime :
    ∃ t, step { builtGenerator with port := portOf [.write 0 0x00000001] } = .next t ∧
      { builtGenerator with port := portOf [.write 0 0x00000001] }.nextIsReset = false ∧
      { builtGenerator with port := portOf [.write 0 0x00000001] }.gv = true ∧
      { builtGenerator with port := portOf [.write 0 0x00000001] }.nextCommand = some .encode :=
  ⟨_, rfl, by decide, rfl, by decide⟩

/-- Two commands from power-on to a generator, a third to its header. -/
theorem witness_ServiceIsNeverAccepted : ∃ s, Reached s ∧ s.gv = true ∧ s.hv = true :=
  ⟨_, reached_run (k := 3)
    (.powerOn paramsVban (portOf [.write 0 0x00000006, .write 0 0x00000007, .write 0 0x00000008]) (by decide) (by decide))
    rfl, by decide, by decide⟩

theorem witness_InvariantAtReset : paramsVban.wf = true ∧ 1 ≤ (portOf []).requesters.length := by decide

/-- An open envelope with a generator built meets the invariant, and can step. -/
theorem witness_StepKeepsTheInvariant :
    let s := { openEnvelope [1, 2] 8 with g := audioFields.toHeaderConfig, gv := true, port := portOf [.write 0 0x00000004] }
    BlockInv s ∧ ∃ t, step s = .next t :=
  ⟨{ params := by decide
     requesters := by decide
     noEnvelope := fun h => by cases h
     envelope := fun _ => by decide
     unattached := fun _ _ => by decide
     framed := fun _ => .inr (decodable_of (by decide))
     written := fun k hk => by
       have hk : k < 28 := hk
       revert k
       decide
     generator := fun _ => encodable_of (by decide)
     header := fun _ => .inr (decodable_of (by decide))
     errCode := by decide
     errFld := by decide
     dbufForm := by decide
     pktForm := by decide }, _, rfl⟩

/-- The same state is one that PldWindow's last clause speaks of. -/
theorem witness_PldWindow : ∃ s, BlockInv s ∧ s.pv = true := ⟨_, witness_StepKeepsTheInvariant.1, rfl⟩

theorem witness_ParametersAreConstant : ∃ t, step { headerReady with port := portOf [.write (wordAddr 0x014) 5] } = .next t :=
  ⟨_, rfl⟩

end Sys2Proof.Tests
end

section
/-! PROOFS. The statements of 00_scope.md: a failed command leaves all but the error registers (R12), and the entries that R8
asks of a registry make every default encodable. -/

namespace Sys2Proof.Machine

/-! ### A failed command (R12) -/

/-- A command that leaves an error code raised it on the state before the command (60_exceptions.md R129). -/
theorem raised_of_err_ne_zero {i : Instr} {s t : State} (h : exec i s = .next t) (he : t.err ≠ 0x00) :
    ∃ e, bodyOf i s = .error e ∧ t = s.raise e := by
  rw [exec_eq_complete] at h
  cases hb : bodyOf i s with
  | error e => rw [hb] at h; cases h; exact ⟨e, rfl, rfl⟩
  | ok u => rw [hb] at h; cases h; exact absurd (succeed_err u) he

/-- Settles O31: an error code after a command means that its body raised, and `raise` writes the error registers alone. -/
theorem failedCommandChangesOnlyErrorRegisters : Obligations.FailedCommandChangesOnlyErrorRegisters := by
  intro i s t h he
  obtain ⟨e, -, rfl⟩ := raised_of_err_ne_zero h he
  rfl

/-! ### The defaults (R8, 42_generator.md R117) -/

theorem hasEntry_of_tableEntry {α : Type} {t : Table α} {i : BitVec 5} {e : α} (h : tableEntry t i = some e) :
    HasEntry t i.toNat :=
  (tableEntry_isSome t i).1 (by rw [h]; rfl)

/-- R8: every default index has an entry in its table. -/
theorem hasEntry_of_registry_wf {reg : Registry} (h : reg.wf = true) :
    HasEntry reg.srTable reg.defSr.toNat ∧ HasEntry reg.bpsTable reg.defBps.toNat ∧
      HasEntry reg.afmtTable reg.defAfmt.toNat ∧ HasEntry reg.sfmtTable reg.defSfmt.toNat ∧
      HasEntry reg.tfmtTable reg.defTfmt.toNat := by
  simp only [Registry.wf, Bool.and_eq_true, decide_eq_true_eq] at h
  obtain ⟨⟨⟨⟨hsr, hbps⟩, hafmt⟩, hsfmt⟩, htfmt⟩ := h
  exact ⟨hasEntry_of_tableEntry hsr, hasEntry_of_tableEntry hbps, hasEntry_of_tableEntry hafmt,
    hasEntry_of_tableEntry hsfmt, hasEntry_of_tableEntry htfmt⟩

theorem registry_wf_of_params_wf {p : Params} (h : p.wf = true) : p.reg.wf = true := by
  simp only [Params.wf, Bool.and_eq_true] at h
  obtain ⟨⟨⟨hreg, -⟩, -⟩, -⟩ := h
  exact hreg

/-- A row of R117 is encodable when its two indices resolve and its two counts are legal: the codec is PCM. -/
theorem encodable_defaultConfig {reg : Registry} {t : BitVec 3} {rate fmt : BitVec 5} {samp chan : BitVec 16}
    {name : List Byte} (ht : t.toNat < 3) (hr : RateKnown reg t.toNat rate.toNat) (hs : CountLegal samp.toNat)
    (hc : CountLegal chan.toNat) (hf : FmtKnown reg t.toNat fmt.toNat) :
    Encodable reg (defaultConfig t rate samp chan fmt name) where
  tag := ht
  rate := hr
  samp := hs
  chan := hc
  fmt := hf
  codec := .inl rfl

/-- The defaults of Audio, Serial and Text exist and pass every gate of `Validate`, for every registry that meets R8. -/
theorem defaults_encodable {reg : Registry} (hreg : reg.wf = true) {t : BitVec 3} (ht : t.toNat < 3) :
    ∃ d, defaults reg t = .ok d ∧ Encodable reg d := by
  obtain ⟨hsr, hbps, hafmt, hsfmt, htfmt⟩ := hasEntry_of_registry_wf hreg
  have count1 : CountLegal (1#16).toNat := ⟨by decide, by decide⟩
  have count2 : CountLegal (2#16).toNat := ⟨by decide, by decide⟩
  have count256 : CountLegal (256#16).toNat := ⟨by decide, by decide⟩
  rcases tag_cases t with rfl | rfl | rfl | rfl | h4
  · exact ⟨_, rfl, encodable_defaultConfig ht (.inl ⟨rfl, hsr⟩) count256 count2 (.inl ⟨rfl, hafmt⟩)⟩
  · exact ⟨_, rfl, encodable_defaultConfig ht (.inr ⟨.inl rfl, hbps⟩) count1 count1 (.inr (.inl ⟨rfl, hsfmt⟩))⟩
  · exact ⟨_, rfl, encodable_defaultConfig ht (.inr ⟨.inr rfl, hbps⟩) count1 count1 (.inr (.inr ⟨rfl, htfmt⟩))⟩
  · exact absurd ht (by decide)
  · omega

/-- ENCODE of encodable field registers succeeds (40_header_codec.md R100). -/
theorem exec_encode_of_encodable {s : State} (h : Encodable s.params.reg s.f.toHeaderConfig) :
    exec .encode s = .next (s.headerProduced (pack s.f)).succeed :=
  exec_of_ok (by simp only [bodyOf, encodeBody, (validate_ok_iff _ _).2 h])

/-- BUILD of encodable field registers succeeds once a protocol is set (42_generator.md R119). -/
theorem exec_build_of_encodable {s : State} (hp : s.pset = true) (h : Encodable s.params.reg s.f.toHeaderConfig) :
    exec .build s = .next { s with g := s.f.toHeaderConfig, counter := 0, gv := true : State }.succeed :=
  exec_of_ok (by simp [bodyOf, buildBody, hp, (validate_ok_iff _ _).2 h])

/-- LOAD_DEFAULTS of a tag that has defaults writes them to the field registers (42_generator.md R118). -/
theorem exec_loadDefaults_of_defaults {s : State} {t : BitVec 3} {d : HeaderConfig}
    (h : defaults s.params.reg t = .ok d) :
    exec (.loadDefaults t) s = .next (s.writeFields (genFields d s.f.frame)).succeed :=
  exec_of_ok (by simp only [bodyOf, loadDefaultsBody, h])

/-- Settles O43: LOAD_DEFAULTS leaves the encodable defaults in the field registers and sets PSET, which is all that ENCODE
and BUILD ask. -/
theorem defaultsAreEncodable : Obligations.DefaultsAreEncodable := by
  intro s u t hwf ht hu
  obtain ⟨d, hd, hd_enc⟩ := defaults_encodable (registry_wf_of_params_wf hwf) ht
  rw [exec_loadDefaults_of_defaults hd] at hu
  cases hu
  have henc : Encodable s.params.reg (genFields d s.f.frame).toHeaderConfig := hd_enc
  exact ⟨henc, ⟨_, exec_encode_of_encodable henc, rfl⟩, ⟨_, exec_build_of_encodable rfl henc, rfl, rfl⟩⟩

end Sys2Proof.Machine
end

section
/-! PROOFS. The statements of 10_state.md: what a step leaves alone (R17, R45, R46), how the host's accesses reach the
registers and the commands (R18, R19, R27), and the invariant (R44). -/

namespace Sys2Proof.Machine

/-! ### What no command and no step writes (R17, R45, R46) -/

/-- A body that reaches `ok` has written none of the host's inputs. -/
theorem body_keeps_hostInputs {i : Instr} {s t : State} (h : bodyOf i s = .ok t) :
    t.dlen = s.dlen ∧ t.dbuf = s.dbuf ∧ t.params = s.params ∧ t.epoch = s.epoch ∧ t.port = s.port := by
  rcases body_ok_cases h with ⟨-, rfl⟩ | ⟨-, -, rfl⟩ | ⟨-, -, rfl⟩ | ⟨-, -, rfl⟩ | ⟨-, -, -, -, rfl⟩ |
      ⟨-, -, -, -, rfl⟩ | ⟨-, -, -, -, rfl⟩ | ⟨-, -, -, rfl⟩ | ⟨-, -, rfl⟩ <;>
    exact ⟨rfl, rfl, rfl, rfl, rfl⟩

/-- A command answers the success of its body or the error that its body raised. -/
theorem exec_cases {i : Instr} {s t : State} (h : exec i s = .next t) :
    (∃ u, bodyOf i s = .ok u ∧ t = u.succeed) ∨ ∃ e, bodyOf i s = .error e ∧ t = s.raise e := by
  by_cases he : t.err = 0x00
  · exact .inl (ok_of_err_zero h he)
  · exact .inr (raised_of_err_ne_zero h he)

theorem exec_keeps_hostInputs {i : Instr} {s t : State} (h : exec i s = .next t) :
    t.dlen = s.dlen ∧ t.dbuf = s.dbuf ∧ t.params = s.params ∧ t.epoch = s.epoch ∧ t.port = s.port := by
  rcases exec_cases h with ⟨u, hu, rfl⟩ | ⟨e, -, rfl⟩
  · exact (body_keeps_hostInputs hu :)
  · exact ⟨rfl, rfl, rfl, rfl, rfl⟩

/-- Settles O34: no body writes DLEN, DBUF, the parameters or the port, and a byte of DBUF depends on DBUF and the epoch
alone. -/
theorem commandsLeaveTheHostsInputs : Obligations.CommandsLeaveTheHostsInputs := by
  intro i s t h
  obtain ⟨hdlen, hdbuf, hparams, hepoch, hport⟩ := exec_keeps_hostInputs h
  exact ⟨hdlen, fun k => by rw [State.dbufByte, State.dbufByte, hdbuf, hepoch], hdbuf, hparams, hepoch, hport⟩

theorem length_requesters_takeAccess (s : State) (r : Nat) :
    (s.takeAccess r).port.requesters.length = s.port.requesters.length := by simp

/-- Settles O52, by the cases of a step: the port changes a requester in place, and neither a reset, nor a write, nor a
command writes the parameters. -/
theorem parametersAreConstant : Obligations.ParametersAreConstant := by
  intro s t h
  rcases step_cases h with ⟨-, rfl⟩ | ⟨rest, -, rfl⟩ | ⟨r, rest, -, ⟨-, rfl⟩ | ⟨wa, -, rfl⟩ | ⟨wa, d, -, -, rfl⟩ |
    ⟨wa, d, e, -, -, -, rfl⟩ | ⟨wa, d, i, -, -, -, hx⟩⟩
  · exact ⟨rfl, rfl⟩
  · exact ⟨rfl, rfl⟩
  · exact ⟨rfl, rfl⟩
  · simp
  · obtain ⟨hparams, hport, -⟩ := writePlace_frame (s.takeAccess r) d (locate s.params.dbufCap wa)
    rw [hparams, hport]
    exact ⟨rfl, length_requesters_takeAccess s r⟩
  · exact ⟨rfl, length_requesters_takeAccess s r⟩
  · obtain ⟨-, -, hparams, -, hport⟩ := exec_keeps_hostInputs hx
    rw [hparams, hport]
    exact ⟨rfl, length_requesters_takeAccess s r⟩

/-! ### The write that a step takes (R18) -/

theorem step_of_write {s : State} {r : Nat} {rest : List Event} (hs : s.port.schedule = .grant r :: rest)
    {wa : BitVec 12} {d : Word} (ha : s.port.nextAccess r = some (.write wa d)) :
    step s = portWrite wa d (s.takeAccess r) := by
  simp only [step, runNext, hs, ha, performAccess]

theorem portWrite_cmd_of_decode {d : Word} {i : Instr} (hd : decode d = .ok i) (s : State) :
    portWrite (wordAddr 0x000) d s = exec i s := by
  rw [portWrite_cmd _ _ _ (locate_cmd _), issueWord, hd]

/-- Settles O5: `performAccess` of a write is `portWrite`, and CMD's write of a word that decodes is `exec`. -/
theorem stepRunsTheDecodedCommand : Obligations.StepRunsTheDecodedCommand := by
  intro s r rest wa d hs ha taken
  have htaken : s.takeAccess r = taken := by simp only [State.takeAccess, hs, List.tail_cons, taken]
  have hstep : step s = portWrite wa d taken := htaken ▸ step_of_write hs ha
  refine ⟨hstep, ?_⟩
  rintro rfl i hd
  rw [hstep, portWrite_cmd_of_decode hd]

theorem decode_of_decodeTableWord {nbits w : Nat} {i : Instr} (h : decodeTableWord nbits w = some i) :
    decode (tableWord nbits w) = .ok i := by
  unfold decodeTableWord at h
  split at h
  · cases h; assumption
  · cases h

/-- Settles O6: the placed word is the write that the step takes, and taking it gives back the port it was placed before. -/
theorem placedWordRunsNext : Obligations.PlacedWordRunsNext := by
  intro s nbits w i hne hw
  obtain ⟨q, qs, hq⟩ := List.exists_cons_of_ne_nil hne
  have hs : (s.withFetchWord nbits w).port.schedule = .grant 0 :: s.port.schedule := rfl
  have ha : (s.withFetchWord nbits w).port.nextAccess 0 = some (.write 0 (tableWord nbits w)) := by
    simp [State.withFetchWord, Port.nextAccess, hq]
  have htaken : (s.withFetchWord nbits w).takeAccess 0 = s.withPort { s.port with requesters := q :: qs } := by
    simp [State.takeAccess, State.withFetchWord, hq]
  rw [step_of_write hs ha, htaken, ← hq]
  exact portWrite_cmd_of_decode (decode_of_decodeTableWord hw) s

/-! ### The registers at the port (R19, R27) -/

theorem portRead_reg (s : State) (r : RegName) : s.portRead (wordAddr (regOffset r)) = s.readReg r := by
  rw [State.portRead, locate_reg, State.readPlace]

theorem portWrite_reg {r : RegName} (h : r ≠ .cmd) (s : State) (d : Word) :
    portWrite (wordAddr (regOffset r)) d s = .next (s.writeReg d r) := by
  rw [portWrite_place _ _ _ (by rw [locate_reg]; simpa using h), locate_reg, State.writePlace]

/-- The number of two bit fields side by side. -/
theorem toNat_append_eq_add {m n : Nat} (x : BitVec m) (y : BitVec n) :
    (x ++ y).toNat = x.toNat * 2 ^ n + y.toNat := by
  rw [BitVec.toNat_append, ← Nat.shiftLeft_add_eq_or_of_lt y.isLt, Nat.shiftLeft_eq]

theorem statusWord_toNat (s : State) :
    s.statusWord.toNat =
      s.err.toNat + s.hv.toNat * 2 ^ 8 + s.pv.toNat * 2 ^ 9 + s.hd.toNat * 2 ^ 10 + s.gv.toNat * 2 ^ 11 +
        s.pset.toNat * 2 ^ 12 := by
  simp only [State.statusWord, toNat_append_eq_add, BitVec.toNat_ofBool, BitVec.ofNat_eq_ofNat, BitVec.toNat_ofNat]
  omega

/-- Settles O12: offset 0x004 is STATUS, whose word is its fields side by side. -/
theorem statusReadLayout : Obligations.StatusReadLayout := by
  intro s
  rw [show (0x004 : Nat) = regOffset .status from rfl, portRead_reg]
  exact statusWord_toNat s

/-- A register reads as the bits of the word that fall inside its field. -/
theorem readReg_writeReg_same {r : RegName} {n : Nat} (h : fieldWidth r = some n) (s : State) (d : Word) :
    ((s.writeReg d r).readReg r).toNat = d.toNat % 2 ^ n := by
  have hd := d.isLt
  cases r <;> cases h <;>
    simp only [State.writeReg, State.hostWroteProto, State.readReg, BitVec.toNat_setWidth] <;> omega

/-- Two registers other than STATUS share no field, so a write of one leaves what the other reads. -/
theorem readReg_writeReg_of_ne {r r' : RegName} (hne : r' ≠ r) (hst : r' ≠ .status) (s : State) (d : Word) :
    (s.writeReg d r).readReg r' = s.readReg r' := by
  cases r <;> cases r' <;> first | rfl | contradiction

/-- All that a write of a register can change; of the fields, PSET by FPROTO alone (R27). -/
theorem writeReg_frame (s : State) (d : Word) (r : RegName) :
    s.writeReg d r =
        { s with f := (s.writeReg d r).f, dlen := (s.writeReg d r).dlen, pset := s.pset || decide (r = .fProto) } ∧
      (s.writeReg d r).f.name = s.f.name := by
  cases r <;> simp [State.writeReg, State.hostWroteProto]

theorem writeReg_of_readOnly {r : RegName} (h : fieldWidth r = none) (s : State) (d : Word) : s.writeReg d r = s := by
  cases r <;> cases h <;> rfl

/-- Settles O14: the write is `writeReg`, whose read-back, frame and read-only cases are the lemmas above. -/
theorem registerWrites : Obligations.RegisterWrites := by
  intro s r d
  constructor
  · intro n hn
    have hcmd : r ≠ .cmd := by rintro rfl; cases hn
    refine ⟨s.writeReg d r, portWrite_reg hcmd s d, ?_, fun r' hne hst => readReg_writeReg_of_ne hne hst s d,
      writeReg_frame s d r⟩
    rw [portRead_reg]
    exact readReg_writeReg_same hn s d
  · intro hn hcmd
    rw [portWrite_reg hcmd, writeReg_of_readOnly hn]

/-! ### The invariant (R44) -/

/-- The elements at their reset values meet the invariant, whatever the parameters, the port and the model's counters. -/
theorem blockInv_reset {p : Params} (hp : p.wf = true) {port : Port} (hport : 1 ≤ port.requesters.length)
    (epoch pktEpoch : Nat) :
    BlockInv { State.reset with params := p, port := port, epoch := epoch, pktEpoch := pktEpoch } where
  params := hp
  requesters := hport
  noEnvelope _ := ⟨rfl, rfl⟩
  envelope h := by cases h
  unattached h := by cases h
  framed h := by cases h
  written k hk := absurd hk (Nat.not_lt_zero k)
  generator h := by cases h
  header h := by cases h
  errCode := Nat.zero_le _
  errFld := Nat.zero_le _
  dbufForm := Memory.wf_nil _
  pktForm := Memory.wf_nil _

/-- Settles O50: at power-on both counters are 0. -/
theorem invariantAtReset : Obligations.InvariantAtReset := fun _ _ hp hport => blockInv_reset hp hport 0 0

theorem getElem_pktHeader (s : State) (k : Fin 28) : s.pktHeader[k] = s.pktByte k.val := by simp [State.pktHeader]

theorem getElem_dbufHeader (s : State) (k : Fin 28) : s.dbufHeader[k] = s.dbufByte k.val := by simp [State.dbufHeader]

theorem dbufCap_mod_of_params_wf {p : Params} (h : p.wf = true) : p.dbufCap % 4 = 0 := by
  simp only [Params.wf, Bool.and_eq_true, decide_eq_true_eq] at h
  obtain ⟨⟨⟨-, hmod⟩, -⟩, -⟩ := h
  exact hmod

namespace BlockInv

variable {s : State}

/-! What each shared operation asks to keep the invariant: the items it can change. -/

theorem resetEvent (hs : BlockInv s) : BlockInv s.resetEvent :=
  blockInv_reset hs.params hs.requesters (s.epoch + 1) (s.pktEpoch + 1)

theorem withPort (hs : BlockInv s) {p : Port} (hp : 1 ≤ p.requesters.length) : BlockInv (s.withPort p) :=
  { hs with requesters := hp }

theorem raise (hs : BlockInv s) (e : Failure) : BlockInv (s.raise e) :=
  { hs with errCode := (errCode_bounds e.err).2, errFld := (fldCode_bounds e.fld).2 }

theorem succeed (hs : BlockInv s) : BlockInv s.succeed :=
  { hs with errCode := Nat.zero_le _, errFld := Nat.zero_le _ }

theorem writeFields (hs : BlockInv s) (f : Fields) : BlockInv (s.writeFields f) := { hs with }

theorem headerProduced (hs : BlockInv s) {h : Vector Byte 28} (hh : GoodHeader s.params.reg h) :
    BlockInv (s.headerProduced h) :=
  { hs with header := fun _ => hh }

theorem withCounter (hs : BlockInv s) (c : BitVec 32) : BlockInv { s with counter := c } := { hs with }

theorem withGenerator (hs : BlockInv s) {g : HeaderConfig} (hg : Encodable s.params.reg g) (c : BitVec 32) :
    BlockInv { s with g := g, counter := c, gv := true } :=
  { hs with generator := fun _ => hg }

/-- A new packet keeps the invariant when its length is legal and its first 28 bytes are a good header (R41, R42). -/
theorem withPacket (hs : BlockInv s) {bs : List Byte} {h : Vector Byte 28} {pv hd : Bool} (hpv : pv = true)
    (hmin : 28 ≤ bs.length) (hmax : bs.length ≤ 1436) (hopen : hd = false → bs.length = 28)
    (hbytes : ∀ k : Fin 28, bs[k.val] = h[k]) (hh : GoodHeader s.params.reg h) :
    BlockInv { s.setPacket bs with pv := pv, hd := hd } := by
  have hlen : (BitVec.ofNat 11 bs.length).toNat = bs.length := by
    rw [BitVec.toNat_ofNat]; exact Nat.mod_eq_of_lt (by omega)
  have hheader : State.pktHeader { s.setPacket bs with pv := pv, hd := hd } = h := by
    apply Vector.ext
    intro k hk
    rw [State.pktHeader, Vector.getElem_ofFn, pktByte_setPacket rfl (by omega)]
    exact hbytes ⟨k, hk⟩
  exact
    { hs with
      noEnvelope := fun h0 => by rw [hpv] at h0; cases h0
      envelope := fun _ => by simp only [setPacket_pktLen, hlen]; exact ⟨hmin, hmax⟩
      unattached := fun _ h0 => hlen.trans (hopen h0)
      framed := fun _ => hheader ▸ hh
      written := fun k hk => Memory.isSome_read?_cells (hlen ▸ hk)
      pktForm := by simp only [setPacket_pktLen, hlen]; exact Memory.wf_cells bs }

/-- A write that is not of CMD reaches none of the packet, the generator, the flags but HV and the error registers; it
keeps DBUF in form, and it leaves HDR as it was or clears HV. -/
theorem writePlace (hs : BlockInv s) (d : Word) (wa : BitVec 12) :
    BlockInv (s.writePlace d (locate s.params.dbufCap wa)) := by
  have hdbuf := writePlace_dbuf_wf (dbufCap_mod_of_params_wf hs.params) hs.dbufForm d wa
  have hheader := writePlace_header s d (locate s.params.dbufCap wa)
  obtain ⟨hparams, hport, -, herr, hfld, -, hpv, hhd, hgv, hg, -, hpkt, hlen, hepoch⟩ :=
    writePlace_frame s d (locate s.params.dbufCap wa)
  generalize s.writePlace d (locate s.params.dbufCap wa) = t at *
  have hpktHeader : t.pktHeader = s.pktHeader := by simp only [State.pktHeader, State.pktByte, hpkt, hepoch]
  exact
    { params := by rw [hparams]; exact hs.params
      requesters := by rw [hport]; exact hs.requesters
      noEnvelope := by rw [hpv, hlen, hhd]; exact hs.noEnvelope
      envelope := by rw [hpv, hlen]; exact hs.envelope
      unattached := by rw [hpv, hhd, hlen]; exact hs.unattached
      framed := by rw [hpv, hparams, hpktHeader]; exact hs.framed
      written := by rw [hlen, hpkt]; exact hs.written
      generator := by rw [hgv, hparams, hg]; exact hs.generator
      header := by
        rcases hheader with hclear | ⟨hhv, hhdr⟩
        · intro hset; rw [hclear] at hset; cases hset
        · rw [hhv, hparams, hhdr]; exact hs.header
      errCode := by rw [herr]; exact hs.errCode
      errFld := by rw [hfld]; exact hs.errFld
      dbufForm := by rw [hparams]; exact hdbuf
      pktForm := by rw [hlen, hpkt]; exact hs.pktForm }

/-- A command that reaches `ok` keeps the invariant: it writes a header or a generator that its gates or the invariant
itself vouch for, or a packet of legal length that begins with such a header. -/
theorem body (hs : BlockInv s) {i : Instr} {t : State} (h : bodyOf i s = .ok t) : BlockInv t := by
  rcases body_ok_cases h with ⟨-, rfl⟩ | ⟨-, henc, rfl⟩ | ⟨-, hdec, rfl⟩ | ⟨-, hhv, rfl⟩ | ⟨-, hpv, hopen, hn, rfl⟩ |
      ⟨-, hmin, hmax, hdec, rfl⟩ | ⟨-, d, -, -, rfl⟩ | ⟨-, -, henc, rfl⟩ | ⟨-, hgv, rfl⟩
  · -- nop
    exact hs
  · -- encode
    exact hs.headerProduced (.inl ⟨s.f, henc, headerOf_pack henc⟩)
  · -- decode
    exact (hs.writeFields _).headerProduced (.inr hdec)
  · -- pktCreate
    exact hs.withPacket rfl (by simp) (by simp) (fun _ => by simp) (fun k => by simp) (hs.header hhv)
  · -- pktAttach
    have hbytes : ∀ k : Fin 28, (s.pktBytes 28 ++ s.dbufBytes s.dlen.toNat)[k.val]'(by simp; omega) = s.pktHeader[k] :=
      fun k => by
        rw [List.getElem_append_left (by simp), getElem_pktBytes, getElem_pktHeader]
    exact hs.withPacket hpv (by simp) (by simp; omega) (by simp) hbytes (hs.framed hpv)
  · -- pktDecode
    have hbytes : ∀ k : Fin 28, (s.dbufBytes s.dlen.toNat)[k.val]'(by simp; omega) = s.dbufHeader[k] :=
      fun k => by rw [getElem_dbufBytes, getElem_dbufHeader]
    exact ((hs.headerProduced (.inr hdec)).writeFields _).withPacket rfl (by simpa using hmin) (by simpa using hmax)
      (by simp) hbytes (.inr hdec)
  · -- loadDefaults
    exact hs.writeFields _
  · -- build
    exact hs.withGenerator henc 0
  · -- genCreate
    have hgen : Encodable s.params.reg (genFields s.g s.counter).toHeaderConfig := hs.generator hgv
    exact (hs.headerProduced (.inl ⟨_, hgen, headerOf_pack hgen⟩)).withCounter _

theorem exec (hs : BlockInv s) {i : Instr} {t : State} (h : exec i s = .next t) : BlockInv t := by
  rcases exec_cases h with ⟨u, hu, rfl⟩ | ⟨e, -, rfl⟩
  · exact (hs.body hu).succeed
  · exact hs.raise e

theorem takeAccess (hs : BlockInv s) (r : Nat) : BlockInv (s.takeAccess r) :=
  hs.withPort (by rw [List.length_modify]; exact hs.requesters)

theorem deliver (hs : BlockInv s) (r : Nat) (wa : BitVec 12) (v : Word) : BlockInv (s.deliver r wa v) :=
  hs.withPort (by rw [List.length_modify]; exact hs.requesters)

theorem takeEvent (hs : BlockInv s) : BlockInv s.takeEvent := hs.withPort hs.requesters

end BlockInv

/-- Settles O51, by the cases of a step, each of which is an operation that keeps the invariant. -/
theorem stepKeepsTheInvariant : Obligations.StepKeepsTheInvariant := by
  intro s t hs h
  rcases step_cases h with ⟨-, rfl⟩ | ⟨rest, -, rfl⟩ | ⟨r, rest, -, ⟨-, rfl⟩ | ⟨wa, -, rfl⟩ | ⟨wa, d, -, -, rfl⟩ |
    ⟨wa, d, e, -, -, -, rfl⟩ | ⟨wa, d, i, -, -, -, hx⟩⟩
  · exact hs
  · exact hs.takeEvent.resetEvent
  · exact hs.takeEvent
  · exact (hs.takeAccess r).deliver r wa _
  · exact (hs.takeAccess r).writePlace d wa
  · exact (hs.takeAccess r).raise _
  · exact (hs.takeAccess r).exec hx

end Sys2Proof.Machine
end

section
/-! PROOFS. The statements of 20_memory.md: a read's step (R51, R62), the one-word registers (R49), the reserved words
(R49, R51, R52) and the six windows with their lanes (R54 to R59). -/

namespace Sys2Proof.Machine

/-! ### A step that takes a read (R51, R62) -/

/-- The word a read returns is the block's alone, whatever stands at its port. -/
@[simp] theorem portRead_withPort (s : State) (p : Port) (wa : BitVec 12) :
    (s.withPort p).portRead wa = s.portRead wa := rfl

theorem portRead_takeAccess (s : State) (r : Nat) (wa : BitVec 12) : (s.takeAccess r).portRead wa = s.portRead wa :=
  portRead_withPort s _ wa

theorem step_of_read {s : State} {r : Nat} {rest : List Event} (hs : s.port.schedule = .grant r :: rest)
    {wa : BitVec 12} (ha : s.port.nextAccess r = some (.read wa)) :
    step s = .next ((s.takeAccess r).deliver r wa (s.portRead wa)) := by
  simp only [step, runNext, hs, ha, performAccess, portRead_takeAccess]

/-- Settles O7: the step takes the access and delivers the word, and each of the two changes requester `r` alone. -/
theorem readStepChangesNothing : Obligations.ReadStepChangesNothing := by
  intro s r rest wa q more hs hq hprog
  have ha : s.port.nextAccess r = some (.read wa) := by simp [Port.nextAccess, hq, hprog]
  refine ⟨_, step_of_read hs ha, rfl, by simp [hs], by simp, ?_, fun r' hne => ?_⟩
  · simp [hq, hprog]
  · simp [Ne.symm hne]

/-! ### The one-word registers (R49, R51) -/

theorem pldLen_toNat {s : State} (hpv : s.pv = true) (hlen : 28 ≤ s.pktLen.toNat) :
    s.pldLen.toNat = s.pktLen.toNat - 28 := by
  rw [State.pldLen, if_pos hpv, BitVec.toNat_sub_of_le (by rw [BitVec.le_def]; exact hlen)]
  rfl

theorem pldLen_of_noEnvelope {s : State} (hpv : s.pv = false) : s.pldLen = 0 := by
  simp [State.pldLen, hpv]

/-- Settles O13: each offset is its register's, and widening a field to a word keeps its number. -/
theorem registerReads : Obligations.RegisterReads := by
  intro s rd
  have hrd (r : RegName) : rd (regOffset r) = (s.readReg r).toNat := congrArg BitVec.toNat (portRead_reg s r)
  have hfield {n : Nat} (r : RegName) (v : BitVec n) (hr : s.readReg r = v.setWidth 32) (hn : n ≤ 32) :
      rd (regOffset r) = v.toNat := by rw [hrd, hr, toNat_setWidth_32 v hn]
  have hpldLen : rd 0x01C = s.pldLen.toNat := hfield .pldLen _ rfl (by decide)
  exact ⟨hrd .cmd, hfield .errFld _ rfl (by decide), hrd .errVal, hrd .counter, hfield .dlen _ rfl (by decide),
    hfield .pktLen _ rfl (by decide), fun hpv hlen => hpldLen.trans (pldLen_toNat hpv hlen),
    fun hpv => by rw [hpldLen, pldLen_of_noEnvelope hpv]; rfl,
    hfield .fProto _ rfl (by decide), hfield .fRate _ rfl (by decide), hfield .fSamp _ rfl (by decide),
    hfield .fChan _ rfl (by decide), hfield .fFmt _ rfl (by decide), hfield .fCodec _ rfl (by decide),
    hfield .fNameLen _ rfl (by decide), hrd .fFrame,
    hfield .gProto _ rfl (by decide), hfield .gRate _ rfl (by decide), hfield .gSamp _ rfl (by decide),
    hfield .gChan _ rfl (by decide), hfield .gFmt _ rfl (by decide), hfield .gCodec _ rfl (by decide),
    hfield .gNameLen _ rfl (by decide)⟩

/-! ### The reserved words (R49, R51, R52) -/

/-- Settles O15: the map gives such a word no place, which reads 0 and takes no write. -/
theorem reservedWordsReadZeroAndIgnoreWrites : Obligations.ReservedWordsReadZeroAndIgnoreWrites := by
  intro s wa d hwf hres
  have hl : locate s.params.dbufCap wa = .reserved := locate_reserved (dbufCap_mod_of_params_wf hwf) wa hres
  exact ⟨by rw [State.portRead, hl, State.readPlace], by rw [portWrite_place _ _ _ (by simp [hl]), hl, State.writePlace]⟩

/-! ### The windows at the port (R49, R54) -/

/-- No DBUF_CAP takes an offset from a window that is there without DBUF. -/
theorem windowAt_of_zero {off : Nat} {b : BufName} (h : windowAt 0 off = some b) (cap : Nat) :
    windowAt cap off = some b := by
  have hdbuf : ¬ (0x2000 ≤ off ∧ off < 0x2000 + 0) := by omega
  simp only [windowAt, if_neg hdbuf] at h ⊢
  split_ifs at h <;> cases h <;> simp only [*, if_true, if_false, and_self]

/-- The word `w` of a window that DBUF_CAP does not size: every window but DBUF, which has no word when DBUF_CAP is 0. -/
theorem locate_fixed (cap : Nat) (b : BufName) {w : Nat} (hw : w < b.words 0) :
    locate cap (wordAddr (bufBase b + 4 * w)) = .buf b w := by
  have h0 : locate 0 (wordAddr (bufBase b + 4 * w)) = .buf b w := locate_buf rfl (Nat.zero_le _) b hw
  simp only [locate] at h0 ⊢
  split at h0
  · cases h0
  · split at h0
    · simp only [windowAt_of_zero ‹_› cap]
      exact h0
    · cases h0

section
variable {s : State} {wa : BitVec 12} {b : BufName} {w : Nat}

/-- A window word reads as its four bytes, the first the most significant. -/
theorem portRead_window (hl : locate s.params.dbufCap wa = .buf b w) :
    (s.portRead wa).toNat =
      be32Nat (s.bufByte b (4 * w)) (s.bufByte b (4 * w + 1)) (s.bufByte b (4 * w + 2)) (s.bufByte b (4 * w + 3)) := by
  rw [State.portRead, hl, State.readPlace, laneWord, be32_toNat]

theorem portWrite_window (hl : locate s.params.dbufCap wa = .buf b w) (d : Word) :
    portWrite wa d s = .next (s.writeBuf d w b) := by
  rw [portWrite_place _ _ _ (by simp [hl]), hl, State.writePlace]

/-- A window word whose four bytes are the lanes of `d` reads as `d`. -/
theorem portRead_of_lanes {d : Word} (hl : locate s.params.dbufCap wa = .buf b w)
    (hlane : ∀ i, i < 4 → s.bufByte b (4 * w + i) = laneByte d i) : s.portRead wa = d := by
  rw [State.portRead, hl, State.readPlace, laneWord, hlane 1 (by decide), hlane 2 (by decide), hlane 3 (by decide),
    show s.bufByte b (4 * w) = laneByte d 0 from hlane 0 (by decide), be32_lanes]

end

/-! ### The bytes of a window before and after a write (R54) -/

theorem byteAt_of_lt {n : Nat} (v : Vector Byte n) {k : Nat} (hk : k < n) : byteAt v k = v[k] := dif_pos hk

theorem be32Nat_byteAt {n w : Nat} (v : Vector Byte n) (hw : 4 * w + 3 < n) :
    be32Nat (byteAt v (4 * w)) (byteAt v (4 * w + 1)) (byteAt v (4 * w + 2)) (byteAt v (4 * w + 3)) =
      be32Nat v[4 * w] v[4 * w + 1] v[4 * w + 2] v[4 * w + 3] := by
  rw [byteAt_of_lt, byteAt_of_lt, byteAt_of_lt, byteAt_of_lt]

/-- The word a write has stored holds the lanes of the data. -/
theorem byteAt_setWord_lane {n w : Nat} (v : Vector Byte n) (d : Word) (hw : 4 * w + 3 < n) {i : Nat} (hi : i < 4) :
    byteAt (setWord v w d) (4 * w + i) = laneByte d i := by
  rw [byteAt_of_lt _ (by omega), getElem_setWord, if_pos (by omega), show (4 * w + i) % 4 = i by omega]

theorem getElem_setWord_of_ne {n w : Nat} (v : Vector Byte n) (d : Word) (k : Fin n) (hk : k.val / 4 ≠ w) :
    (setWord v w d)[k] = v[k] :=
  (getElem_setWord v w d k.val k.isLt).trans (if_neg hk)

theorem dbufByte_writeDbufWord_lane (s : State) (w : Nat) (d : Word) {i : Nat} (hi : i < 4) :
    (s.writeDbufWord w d).dbufByte (4 * w + i) = laneByte d i := by
  rw [dbufByte_write (writeDbufWord_dbuf s w d) rfl, if_pos (by simpa using hi), Nat.add_sub_cancel_left]
  interval_cases i <;> rfl

theorem dbufByte_writeDbufWord_of_ne (s : State) (w : Nat) (d : Word) {k : Nat} (hk : k / 4 ≠ w) :
    (s.writeDbufWord w d).dbufByte k = s.dbufByte k := by
  rw [dbufByte_write (writeDbufWord_dbuf s w d) rfl, if_neg]
  simp only [List.length_cons, List.length_nil]
  omega

/-! ### HDR and the names (R55, R56) -/

/-- Settles O16: HDR is held whole, so that `setWord` says what a write does to each of its bytes. -/
theorem hdrWindow : Obligations.HdrWindow := by
  intro s w d
  have hl (cap : Nat) : locate cap (wordAddr (0x050 + 4 * w.val)) = .buf .hdr w.val := locate_fixed cap .hdr w.isLt
  refine ⟨?_, s.hostWroteHdr w.val d, portWrite_window (hl _) d, rfl, ?_, getElem_setWord_of_ne s.hdr d⟩
  · rw [portRead_window (hl _)]
    exact be32Nat_byteAt s.hdr (by omega)
  · exact portRead_of_lanes (hl _) fun i hi => byteAt_setWord_lane s.hdr d (by omega) hi

/-- Settles O17: FNAME as HDR, and GNAME with a write that stores nothing. -/
theorem nameWindows : Obligations.NameWindows := by
  intro s w d
  have hf (cap : Nat) : locate cap (wordAddr (0x040 + 4 * w.val)) = .buf .fName w.val := locate_fixed cap .fName w.isLt
  have hg (cap : Nat) : locate cap (wordAddr (0x0A0 + 4 * w.val)) = .buf .gName w.val := locate_fixed cap .gName w.isLt
  refine ⟨?_, ?_, portWrite_window (hg _) d, s.writeBuf d w.val .fName, portWrite_window (hf _) d, rfl, ?_,
    getElem_setWord_of_ne s.f.name d⟩
  · rw [portRead_window (hf _)]
    exact be32Nat_byteAt s.f.name (by omega)
  · rw [portRead_window (hg _)]
    exact be32Nat_byteAt s.g.name (by omega)
  · exact portRead_of_lanes (hf _) fun i hi => byteAt_setWord_lane s.f.name d (by omega) hi

/-! ### The packet and its payload (R57, R58) -/

theorem locate_pkt (cap : Nat) {w : Nat} (hw : w < 359) : locate cap (wordAddr (0x800 + 4 * w)) = .buf .pkt w :=
  locate_fixed cap .pkt hw

/-- Settles O18: the window's bytes are those of `bytesView`, and a write of it stores nothing. -/
theorem pktWindow : Obligations.PktWindow := by
  intro s w d shown
  have hl := locate_pkt s.params.dbufCap w.isLt
  refine ⟨?_, portWrite_window hl d⟩
  rw [portRead_window hl]
  simp only [State.bufByte, State.bytesView, shown]

theorem payloadView_eq (s : State) (j : Nat) :
    s.payloadView j = if s.pv = true ∧ 28 + j < s.pktLen.toNat then s.pktByte (28 + j) else 0x00 := by
  simp [State.payloadView]

/-- The payload is the packet from byte 28 on: with no envelope PKTLEN is 0, and both show 0x00 (10_state.md R44). -/
theorem BlockInv.payloadView_eq_bytesView {s : State} (hs : BlockInv s) (j : Nat) :
    s.payloadView j = s.bytesView (28 + j) := by
  rw [payloadView_eq, State.bytesView]
  cases hpv : s.pv with
  | true => simp
  | false =>
    obtain ⟨hlen, -⟩ := hs.noEnvelope hpv
    simp [hlen]

/-- Settles O19: the window's bytes are those of `payloadView`, a write of it stores nothing, and seven words of PKT stand
before the payload. -/
theorem pldWindow : Obligations.PldWindow := by
  intro s w d shown
  have hl : locate s.params.dbufCap (wordAddr (0x1000 + 4 * w.val)) = .buf .pld w.val := locate_fixed _ .pld w.isLt
  have hpkt := locate_pkt s.params.dbufCap (show 7 + w.val < 359 by omega)
  refine ⟨?_, portWrite_window hl d, fun hs => ?_⟩
  · rw [portRead_window hl]
    simp only [State.bufByte, payloadView_eq, shown]
  · rw [State.portRead, State.portRead, hl, hpkt]
    simp only [State.readPlace, State.bufByte, laneWord, hs.payloadView_eq_bytesView, Nat.mul_add, ← Nat.add_assoc]

/-! ### DBUF (R59) -/

theorem dbufCap_le_of_params_wf {p : Params} (h : p.wf = true) : p.dbufCap ≤ 8192 := by
  simp only [Params.wf, Bool.and_eq_true, decide_eq_true_eq] at h
  obtain ⟨-, hle⟩ := h
  exact hle

/-- Settles O20: a write stores the four lanes at `4w`, and a byte outside them reads as before. -/
theorem dbufWindow : Obligations.DbufWindow := by
  intro s w d hwf hw
  have hl : locate s.params.dbufCap (wordAddr (0x2000 + 4 * w)) = .buf .dbuf w :=
    locate_buf (dbufCap_mod_of_params_wf hwf) (dbufCap_le_of_params_wf hwf) .dbuf hw
  refine ⟨?_, s.writeDbufWord w d, portWrite_window hl d, rfl, ?_,
    fun k hk => dbufByte_writeDbufWord_of_ne s w d hk⟩
  · rw [portRead_window hl]
    simp only [State.bufByte]
  · exact portRead_of_lanes (s := s.writeDbufWord w d) hl fun i hi => dbufByte_writeDbufWord_lane s w d hi

end Sys2Proof.Machine
end

section
/-! PROOFS. The statements of 30_encoding.md: the command word (R85 to R88), the assembler's targets (R92) and the
pseudo-instructions that place data (R93). -/

namespace Sys2Proof.Machine

/-! ### The fields of a command word (R85, R86) -/

theorem opField_toNat (w : Word) : (opField w).toNat = w.toNat % 2 ^ 8 := by
  simp [opField, BitVec.extractLsb'_toNat]

theorem argField_toNat (w : Word) : (argField w).toNat = w.toNat / 2 ^ 8 % 8 := by
  simp [argField, BitVec.extractLsb'_toNat, Nat.shiftRight_eq_div_pow]

theorem rsvField_toNat (w : Word) : (rsvField w).toNat = w.toNat / 2 ^ 11 := by
  have hw := w.isLt
  simp only [rsvField, BitVec.extractLsb'_toNat, Nat.shiftRight_eq_div_pow]
  omega

/-- OP, ARG and RSV are the whole word. -/
theorem eq_of_fields_eq {w v : Word} (hr : rsvField w = rsvField v) (ha : argField w = argField v)
    (ho : opField w = opField v) : w = v := by
  have hr := congrArg BitVec.toNat hr
  have ha := congrArg BitVec.toNat ha
  have ho := congrArg BitVec.toNat ho
  simp only [rsvField_toNat, argField_toNat, opField_toNat] at hr ha ho
  apply BitVec.eq_of_toNat_eq
  omega

theorem fields_encode (i : Instr) : Laws.EncodedWord.Statement i := by
  cases i with
  | nop => exact Laws.EncodedWord.nop
  | encode => exact Laws.EncodedWord.encode
  | decode => exact Laws.EncodedWord.decode
  | pktCreate => exact Laws.EncodedWord.pktCreate
  | pktAttach => exact Laws.EncodedWord.pktAttach
  | pktDecode => exact Laws.EncodedWord.pktDecode
  | loadDefaults t => exact Laws.EncodedWord.loadDefaults t
  | build => exact Laws.EncodedWord.build
  | genCreate => exact Laws.EncodedWord.genCreate

theorem eq_encode_iff (w : Word) (i : Instr) :
    w = encode i ↔ rsvField w = 0 ∧ argField w = argument i ∧ opField w = opcode i := by
  obtain ⟨hop, harg, hrsv⟩ := fields_encode i
  constructor
  · rintro rfl
    exact ⟨hrsv, harg, hop⟩
  · rintro ⟨hr, ha, ho⟩
    exact eq_of_fields_eq (hr.trans hrsv.symm) (ha.trans harg.symm) (ho.trans hop.symm)

/-! ### The decoder (R88) -/

/-- A command is selected by its own fields only: the tests of `Dispatch` before its own have failed. -/
theorem fields_of_decode {w : Word} {i : Instr} (h : decode w = .ok i) :
    rsvField w = 0 ∧ argField w = argument i ∧ opField w = opcode i := by
  by_cases hr : rsvField w = 0
  swap
  · simp only [decode, ne_eq, hr, not_false_eq_true, if_true, reduceCtorEq] at h
  by_cases h6 : opField w = 0x06
  · simp only [decode, hr, h6, ne_eq, not_true_eq_false, if_false, if_true] at h
    cases h
    exact ⟨hr, rfl, h6⟩
  by_cases ha : argField w = 0
  swap
  · simp only [decode, ne_eq, hr, h6, ha, not_true_eq_false, not_false_eq_true, if_true, if_false, reduceCtorEq] at h
  simp only [decode, hr, h6, ha, ne_eq, not_true_eq_false, if_false] at h
  split_ifs at h with ho ho ho ho ho ho ho ho <;> cases h <;> exact ⟨hr, ha, ho⟩

/-- The opcodes of the map are distinct, and only LOAD_DEFAULTS passes the ARG test with an operand. -/
theorem decode_of_fields {w : Word} {i : Instr} (hr : rsvField w = 0) (ha : argField w = argument i)
    (ho : opField w = opcode i) : decode w = .ok i := by
  cases i <;> simp only [argument, opcode] at ha ho <;> simp [decode, hr, ha, ho]

theorem decode_eq_ok_iff (w : Word) (i : Instr) :
    decode w = .ok i ↔ rsvField w = 0 ∧ argField w = argument i ∧ opField w = opcode i :=
  ⟨fields_of_decode, fun ⟨hr, ha, ho⟩ => decode_of_fields hr ha ho⟩

/-- Settles O2: to decode to `i` and to be its encoding both say that RSV, ARG and OP are those of `i`. -/
theorem everyCommandHasOneWord : Obligations.EveryCommandHasOneWord := by
  intro i _ w
  rw [decode_eq_ok_iff, eq_encode_iff]

theorem decode_encode (i : Instr) : decode (encode i) = .ok i :=
  (decode_eq_ok_iff _ _).2 ((eq_encode_iff _ _).1 rfl)

/-- Settles O1: each of the words is the encoding of its command. -/
theorem commandWordsDecode : Obligations.CommandWordsDecode :=
  ⟨decode_encode .nop, decode_encode .encode, decode_encode .decode, decode_encode .pktCreate,
    decode_encode .pktAttach, decode_encode .pktDecode, decode_encode (.loadDefaults 1), decode_encode .build,
    decode_encode .genCreate⟩

/-- The opcodes that are assigned, and the one of them that takes an operand (R86, R87). -/
theorem exists_argument_opcode_iff (a : BitVec 3) (o : BitVec 8) :
    (∃ i, a = argument i ∧ o = opcode i) ↔ o.toNat < 9 ∧ (a.toNat = 0 ∨ o.toNat = 6) := by
  constructor
  · rintro ⟨i, rfl, rfl⟩
    cases i <;> simp [argument, opcode]
  · rintro ⟨ho, h⟩
    by_cases h6 : o = 6
    · exact ⟨.loadDefaults a, rfl, h6⟩
    have ha : a = 0 := BitVec.eq_of_toNat_eq (h.resolve_right fun e => h6 (BitVec.eq_of_toNat_eq e))
    have hassigned : o = 0 ∨ o = 1 ∨ o = 2 ∨ o = 3 ∨ o = 4 ∨ o = 5 ∨ o = 7 ∨ o = 8 := by
      simp only [← BitVec.toNat_inj, BitVec.ofNat_eq_ofNat, BitVec.toNat_ofNat] at h6 ⊢
      omega
    rcases hassigned with ho | ho | ho | ho | ho | ho | ho | ho
    · exact ⟨.nop, ha, ho⟩
    · exact ⟨.encode, ha, ho⟩
    · exact ⟨.decode, ha, ho⟩
    · exact ⟨.pktCreate, ha, ho⟩
    · exact ⟨.pktAttach, ha, ho⟩
    · exact ⟨.pktDecode, ha, ho⟩
    · exact ⟨.build, ha, ho⟩
    · exact ⟨.genCreate, ha, ho⟩

/-- Settles O3: a word decodes when its fields are those of some command, which is said on the fields' numbers. -/
theorem decodeIsTotal : Obligations.DecodeIsTotal := by
  intro w
  simp only [decode_eq_ok_iff, exists_and_left, exists_argument_opcode_iff, opField_toNat, argField_toNat,
    ← BitVec.toNat_inj (x := rsvField w), rsvField_toNat, BitVec.ofNat_eq_ofNat, BitVec.toNat_ofNat]
  omega

/-! ### The assembler's targets (R92) -/

/-- Settles O21: a target is assembled to the word address of the offset at which the map has its place. -/
theorem targetsReachTheirPlaces : Obligations.TargetsReachTheirPlaces := by
  intro cap h4 h8
  refine ⟨locate_reg cap, fun b w hwf => locate_buf h4 h8 b (of_decide_eq_true hwf), fun o hwf => ⟨rfl, ?_⟩⟩
  obtain ⟨hmod, hlt⟩ := of_decide_eq_true hwf
  exact off_wordAddr hmod hlt

/-! ### The accesses of a pseudo-instruction (R93) -/

theorem runAccesses_wr_reg {r : RegName} (h : r ≠ .cmd) (v : Word) (as : List Access) (s : State) :
    runAccesses (asmWr (.reg r) v :: as) s = runAccesses as (s.writeReg v r) := by
  simp only [runAccesses, performAccess_wr_reg h]

/-- The state after the words `0 .. n-1` of a window are written in order, word `w` with `g w`. -/
def State.writeWords (s : State) (b : BufName) (g : Nat → Word) : Nat → State
  | 0     => s
  | n + 1 => (s.writeWords b g n).writeBuf (g n) n b

section
variable (s : State) (g : Nat → Word)

theorem writeWords_succ (b : BufName) (n : Nat) :
    s.writeWords b g (n + 1) = (s.writeWords b g n).writeBuf (g n) n b := rfl

theorem writeBuf_params (d : Word) (w : Nat) (b : BufName) : (s.writeBuf d w b).params = s.params := by
  obtain ⟨hparams, -⟩ := writePlace_frame s d (.buf b w)
  exact hparams

theorem writeWords_params (b : BufName) (n : Nat) : (s.writeWords b g n).params = s.params := by
  induction n with
  | zero => rfl
  | succ n ih => rw [writeWords_succ, writeBuf_params, ih]

variable {s}

/-- `WR`s of the first `n` words of a window perform `writeWords`. -/
theorem runAccesses_wr_words (hwf : s.params.wf = true) {b : BufName} {n : Nat} (hn : n ≤ b.words s.params.dbufCap) :
    runAccesses ((List.range n).map fun w => asmWr (.buf b w) (g w)) s = .next (s.writeWords b g n) := by
  induction n with
  | zero => rfl
  | succ n ih =>
    have hp := writeWords_params s g b n
    have hwr : performAccess 0 (asmWr (.buf b n) (g n)) (s.writeWords b g n) = .next (s.writeWords b g (n + 1)) :=
      performAccess_wr_buf (by rw [hp]; exact dbufCap_mod_of_params_wf hwf)
        (by rw [hp]; exact dbufCap_le_of_params_wf hwf) (by rw [hp]; omega) (g n)
    rw [List.range_succ, List.map_append, runAccesses_append, ih (by omega)]
    simp only [List.map_cons, List.map_nil, runAccesses, hwr]

variable (s)

/-! What `writeWords` leaves unchanged (R52, R53). -/

theorem writeWords_fName_frame (n : Nat) :
    ∃ name, s.writeWords .fName g n = { s with f := { s.f with name := name } } := by
  induction n with
  | zero => exact ⟨s.f.name, rfl⟩
  | succ n ih =>
    obtain ⟨name, h⟩ := ih
    exact ⟨setWord name n (g n), by rw [writeWords_succ, h, State.writeBuf]⟩

theorem writeWords_hdr_frame (n : Nat) : ∃ hdr, s.writeWords .hdr g (n + 1) = { s with hdr := hdr, hv := false } := by
  induction n with
  | zero => exact ⟨setWord s.hdr 0 (g 0), rfl⟩
  | succ n ih =>
    obtain ⟨hdr, h⟩ := ih
    exact ⟨setWord hdr (n + 1) (g (n + 1)), by rw [writeWords_succ, h, State.writeBuf, State.hostWroteHdr]⟩

theorem writeWords_dbuf_frame (n : Nat) : ∃ dbuf, s.writeWords .dbuf g n = { s with dbuf := dbuf } := by
  induction n with
  | zero => exact ⟨s.dbuf, rfl⟩
  | succ n ih =>
    obtain ⟨dbuf, h⟩ := ih
    exact ⟨_, by rw [writeWords_succ, h, State.writeBuf, State.writeDbufWord]⟩

end

/-! ### The bytes that the words of a window put in place (R54, R93) -/

/-- Byte `k` of a buffer after a write of one of its words. -/
theorem byteAt_setWord {n w : Nat} (v : Vector Byte n) (d : Word) (hw : 4 * w + 3 < n) (k : Nat) :
    byteAt (setWord v w d) k = if k / 4 = w then laneByte d (k % 4) else byteAt v k := by
  by_cases hk : k < n
  · rw [byteAt_of_lt _ hk, byteAt_of_lt _ hk, getElem_setWord]
  · rw [if_neg (by omega), byteAt, byteAt, dif_neg hk, dif_neg hk]

theorem dbufByte_writeDbufWord (s : State) (w : Nat) (d : Word) (k : Nat) :
    (s.writeDbufWord w d).dbufByte k = if k / 4 = w then laneByte d (k % 4) else s.dbufByte k := by
  split_ifs with h
  · subst h
    simpa only [Nat.div_add_mod] using dbufByte_writeDbufWord_lane s (k / 4) d (Nat.mod_lt k (by decide))
  · exact dbufByte_writeDbufWord_of_ne s w d h

/-- The windows that take a host write (R55, R56, R59). -/
def ReadWriteWindow (b : BufName) : Prop := b = .fName ∨ b = .hdr ∨ b = .dbuf

/-- A write of a word of a read/write window stores its four lanes there and no other byte of the window (R52, R54). -/
theorem bufByte_writeBuf {s : State} {b : BufName} (hb : ReadWriteWindow b) {w : Nat}
    (hw : w < b.words s.params.dbufCap) (d : Word) (k : Nat) :
    (s.writeBuf d w b).bufByte b k = if k / 4 = w then laneByte d (k % 4) else s.bufByte b k := by
  rcases hb with rfl | rfl | rfl <;> simp only [BufName.words] at hw
  · exact byteAt_setWord s.f.name d (by omega) k
  · exact byteAt_setWord s.hdr d (by omega) k
  · exact dbufByte_writeDbufWord s w d k

theorem bufByte_writeWords {s : State} {b : BufName} (hb : ReadWriteWindow b) (g : Nat → Word) {n : Nat}
    (hn : n ≤ b.words s.params.dbufCap) (k : Nat) :
    (s.writeWords b g n).bufByte b k = if k / 4 < n then laneByte (g (k / 4)) (k % 4) else s.bufByte b k := by
  induction n with
  | zero => rw [State.writeWords, if_neg (Nat.not_lt_zero _)]
  | succ n ih =>
    rw [writeWords_succ, bufByte_writeBuf hb (by rw [writeWords_params]; omega), ih (by omega)]
    rcases Nat.lt_trichotomy (k / 4) n with h | h | h
    · simp [h, h.ne, Nat.lt_succ_of_lt h]
    · simp [h]
    · simp [h.ne', Nat.not_lt_of_lt h, Nat.not_lt.2 h]

theorem laneByte_laneWord (byte : Nat → Byte) (k : Nat) : laneByte (laneWord byte (k / 4)) (k % 4) = byte k := by
  have h := laneByte_be32 (fun i => byte (4 * (k / 4) + i.val)) ⟨k % 4, Nat.mod_lt k (by decide)⟩
  rwa [Nat.div_add_mod] at h

/-- The words of a byte string put its bytes in place, 0x00 past its end. -/
theorem bufByte_writeWords_bytesWord {s : State} {b : BufName} (hb : ReadWriteWindow b) (l : List Byte)
    {n : Nat} (hn : n ≤ b.words s.params.dbufCap) {k : Nat} (hk : k < 4 * n) :
    (s.writeWords b (bytesWord l) n).bufByte b k = (l[k]?).getD 0x00 := by
  rw [bufByte_writeWords hb _ hn, if_pos (by omega)]
  exact laneByte_laneWord _ k

/-! ### LDNAME, LDFIELDS, LDHDR and LDBUF (R93) -/

theorem ldName_places {s : State} (hwf : s.params.wf = true) (b : List Byte) :
    ∃ t, runAccesses (assemble (.ldName b)) s = .next t ∧
      (∀ i : Fin 16, t.f.name[i] = (b[i.val]?).getD 0x00) ∧ t.f.namelen.toNat = min b.length 255 ∧
      t = { s with f := { s.f with name := t.f.name, namelen := t.f.namelen } } := by
  have hwords : 4 ≤ BufName.fName.words s.params.dbufCap := le_rfl
  obtain ⟨name, hname⟩ := writeWords_fName_frame s (bytesWord (b.take 16)) 4
  have hbyte (k : Nat) (hk : k < 16) : byteAt name k = (b[k]?).getD 0x00 := by
    have h := bufByte_writeWords_bytesWord (.inl rfl) (b.take 16) hwords hk
    rwa [hname, List.getElem?_take_of_lt hk] at h
  have hrun : runAccesses (assemble (.ldName b)) s =
      .next ({ s with f := { s.f with name := name } : State }.writeReg (BitVec.ofNat 32 (min b.length 255))
        .fNameLen) := by
    simp only [assemble, runAccesses_append, runAccesses_wr_words _ hwf hwords, hname]
    exact runAccesses_wr_reg (by decide) _ [] _
  refine ⟨_, hrun, fun i => (byteAt_of_lt name i.isLt).symm.trans (hbyte i i.isLt), ?_, rfl⟩
  simp only [State.writeReg, BitVec.toNat_setWidth, BitVec.toNat_ofNat]
  omega

/-- LDFIELDS stores the low bits of each value in its field and, by FPROTO, sets PSET. -/
theorem runAccesses_ldFields (s : State) (t r sa c f k fr : Word) :
    runAccesses (assemble (.ldFields t r sa c f k fr)) s =
      .next { s with
        f := { s.f with
          tag := t.setWidth 3, rate := r.setWidth 5, samp := sa.setWidth 16, chan := c.setWidth 16
          fmt := f.setWidth 5, codec := k.setWidth 4, frame := fr }
        pset := true } := by
  have hrun (r : RegName) (h : r ≠ .cmd) := @runAccesses_wr_reg r h
  rw [assemble, hrun .fProto (by decide), hrun .fRate (by decide), hrun .fSamp (by decide), hrun .fChan (by decide),
    hrun .fFmt (by decide), hrun .fCodec (by decide), hrun .fFrame (by decide)]
  simp only [State.writeReg, State.hostWroteProto, runAccesses]

theorem runAccesses_ldHdr {s : State} (hwf : s.params.wf = true) (b : Vector Byte 28) :
    runAccesses (assemble (.ldHdr b)) s = .next { s with hdr := b, hv := false } := by
  have hwords : 7 ≤ BufName.hdr.words s.params.dbufCap := le_rfl
  obtain ⟨hdr, hhdr⟩ := writeWords_hdr_frame s (bytesWord b.toList) 6
  have hb : hdr = b := by
    refine Vector.ext fun k hk => (byteAt_of_lt hdr hk).symm.trans ?_
    have h := bufByte_writeWords_bytesWord (.inr (.inl rfl)) b.toList hwords hk
    rwa [hhdr, List.getElem?_eq_getElem (by simpa using hk)] at h
  rw [assemble, runAccesses_wr_words _ hwf hwords, hhdr, hb]

theorem ldBuf_places {s : State} (hwf : s.params.wf = true) {b : List Byte} (hb : b.length ≤ s.params.dbufCap) :
    ∃ t, runAccesses (assemble (.ldBuf b)) s = .next t ∧
      (∀ k, k < (b.length + 3) / 4 * 4 → t.dbufByte k = (b[k]?).getD 0x00) ∧
      (∀ k, (b.length + 3) / 4 * 4 ≤ k → t.dbufByte k = s.dbufByte k) ∧ t.dlen.toNat = b.length ∧
      t = { s with dbuf := t.dbuf, dlen := t.dlen } := by
  have hmod := dbufCap_mod_of_params_wf hwf
  have hcap := dbufCap_le_of_params_wf hwf
  have hwords : (b.length + 3) / 4 ≤ BufName.dbuf.words s.params.dbufCap := by
    simp only [BufName.words]
    omega
  have hrw : ReadWriteWindow .dbuf := .inr (.inr rfl)
  obtain ⟨dbuf, hdbuf⟩ := writeWords_dbuf_frame s (bytesWord b) ((b.length + 3) / 4)
  have hrun : runAccesses (assemble (.ldBuf b)) s =
      .next ({ s with dbuf := dbuf : State }.writeReg (BitVec.ofNat 32 b.length) .dlen) := by
    simp only [assemble, wordsFor, runAccesses_append, runAccesses_wr_words _ hwf hwords, hdbuf]
    exact runAccesses_wr_reg (by decide) _ [] _
  refine ⟨_, hrun, fun k hk => ?_, fun k hk => ?_, ?_, rfl⟩
  · have h := bufByte_writeWords_bytesWord hrw b hwords (k := k) (by omega)
    rwa [hdbuf] at h
  · have h := bufByte_writeWords hrw (bytesWord b) hwords k
    rwa [hdbuf, if_neg (by omega)] at h
  · simp only [State.writeReg, BitVec.toNat_setWidth, BitVec.toNat_ofNat]
    omega

/-- Settles O22: each of the four writes the words of a window in order, or registers, as the lemmas above say. -/
theorem pseudoInstructionsPlaceTheirData : Obligations.PseudoInstructionsPlaceTheirData := by
  intro s hwf
  refine ⟨ldName_places hwf, fun t r sa c f k fr => ?_, runAccesses_ldHdr hwf, fun _ hb => ldBuf_places hwf hb⟩
  exact ⟨_, runAccesses_ldFields s t r sa c f k fr, BitVec.toNat_setWidth _ _, BitVec.toNat_setWidth _ _,
    BitVec.toNat_setWidth _ _, BitVec.toNat_setWidth _ _, BitVec.toNat_setWidth _ _, BitVec.toNat_setWidth _ _,
    rfl, rfl⟩

end Sys2Proof.Machine
end

section
/-! PROOFS. The statements of 40_header_codec.md: the gates of ENCODE and DECODE (R94, R98, R100, R101), the counts (R102),
the overlap of byte 7 (R103), the round trip of a name (R105) and that of a whole header (R104). -/

namespace Sys2Proof.Machine

/-! ### The round trip of a name (R105) -/

section
variable {b : Vector Byte 16} {len : Nat}

theorem NameLen.lt_of_ne_zero (h : NameLen b len) {i : Fin 16} (hi : b[i] ≠ 0x00) : i.val < len := by
  by_contra hlt
  exact hi (h.padding i (by omega))

theorem NameLen.exists_last (h : NameLen b len) (h0 : len ≠ 0) : ∃ i : Fin 16, b[i] ≠ 0x00 ∧ len = i.val + 1 := by
  have hbound := h.bound
  have hpred : len - 1 + 1 = len := by omega
  exact ⟨⟨len - 1, by omega⟩, h.last _ hpred, hpred.symm⟩

end

theorem nameEnc_ne_zero_iff (name : Vector Byte 16) (len : BitVec 8) (i : Fin 16) :
    (nameEnc name len)[i] ≠ 0x00 ↔ i.val < min len.toNat 16 ∧ name[i] ≠ 0x00 := by
  rw [getElem_nameEnc]
  split <;> simp [*]

/-- Settles O30: `NameDec` finds the last byte of the encoded name that is not 0x00, and such a byte is one of the name below
min(len, 16). -/
theorem nameRoundTrip : Obligations.NameRoundTrip := by
  rintro name len l l' rfl rfl
  have hlen := nameLen_nameDec (nameEnc name len)
  have lower : ∀ i : Fin 16, i.val < min len.toNat 16 → name[i] ≠ 0x00 → i.val + 1 ≤ nameDecLen (nameEnc name len) :=
    fun i hi hne => hlen.lt_of_ne_zero ((nameEnc_ne_zero_iff name len i).2 ⟨hi, hne⟩)
  have attained : nameDecLen (nameEnc name len) ≠ 0 →
      ∃ i : Fin 16, i.val < min len.toNat 16 ∧ name[i] ≠ 0x00 ∧ nameDecLen (nameEnc name len) = i.val + 1 := by
    intro h0
    obtain ⟨i, hne, he⟩ := hlen.exists_last h0
    obtain ⟨hi, hname⟩ := (nameEnc_ne_zero_iff name len i).1 hne
    exact ⟨i, hi, hname, he⟩
  have upper : nameDecLen (nameEnc name len) ≤ min len.toNat 16 := by
    by_cases h0 : nameDecLen (nameEnc name len) = 0
    · omega
    · obtain ⟨i, hi, -, he⟩ := attained h0
      omega
  refine ⟨upper, lower, attained, fun he => ?_, ?_⟩
  · by_cases h0 : min len.toNat 16 = 0
    · exact .inl h0
    · obtain ⟨i, -, hne, hi⟩ := attained (by omega)
      exact .inr ⟨i, by omega, hne⟩
  · rintro (h0 | ⟨i, hi, hne⟩)
    · omega
    · have := lower i (by omega) hne
      omega

/-! ### The counts (R102) -/

theorem toNat_setWidth_pred {n : BitVec 16} (h : CountLegal n.toNat) : ((n - 1).setWidth 8).toNat = n.toNat - 1 := by
  obtain ⟨h1, h256⟩ := h
  simp only [BitVec.toNat_setWidth, BitVec.toNat_sub, show (1 : BitVec 16).toNat = 1 from rfl]
  omega

/-- Whatever `Unpack` answers with success are the fields of the header (R98). -/
theorem fieldsOf_unpack {reg : Registry} {h : Vector Byte 28} {f : Fields} (hu : unpack reg h = .ok f) : FieldsOf h f := by
  rcases unpack_spec reg h with ⟨hok, -⟩ | ⟨e, he, -⟩
  · cases hok.symm.trans hu
    exact fieldsOf_headerFields h
  · cases he.symm.trans hu

/-- Settles O27: `Pack` subtracts 1 from a legal count, and `Unpack` adds 1 to any byte. -/
theorem sampleAndChannelSymmetry : Obligations.SampleAndChannelSymmetry := by
  intro reg v h1 h256
  refine ⟨fun f => ⟨?_, ?_⟩, fun h f hu => ?_⟩
  · rintro rfl
    rw [getElem_pack]
    exact toNat_setWidth_pred ⟨h1, h256⟩
  · rintro rfl
    rw [getElem_pack]
    exact toNat_setWidth_pred ⟨h1, h256⟩
  · have hf := fieldsOf_unpack hu
    have hs := hf.samp
    have hc := hf.chan
    omega

/-! ### Byte 7 (R73, R103) -/

/-- The two fields of byte 7, for a tuple that need not be encodable. -/
theorem toNat_pack_byte7 (f : Fields) : (pack f)[7].toNat = f.fmt.toNat ||| f.codec.toNat * 16 := by
  have hf := f.fmt.isLt
  have hk := f.codec.isLt
  have hb : (pack f)[7] = f.fmt.setWidth 8 ||| (f.codec.setWidth 8 <<< 4) := getElem_pack f 7 (by decide)
  simp only [hb, BitVec.toNat_or, BitVec.toNat_shiftLeft, BitVec.toNat_setWidth, Nat.shiftLeft_eq, Nat.reducePow]
  rw [Nat.mod_eq_of_lt (by omega : f.fmt.toNat < 256), Nat.mod_eq_of_lt (by omega : f.codec.toNat < 256),
    Nat.mod_eq_of_lt (by omega : f.codec.toNat * 16 < 256)]

/-- The format read from byte 7 has the codec's bit 0 at its bit 4. -/
theorem byte7_mod_32 {x : Nat} (hx : x < 32) (k : Nat) : (x ||| k * 16) % 32 = x ||| k % 2 * 16 := by
  have h := Nat.or_mod_two_pow (a := x) (b := k * 16) (n := 5)
  rwa [Nat.mod_eq_of_lt hx, show k * 16 % 2 ^ 5 = k % 2 * 16 by omega] at h

/-- The codec read from byte 7 has the format's bit 4 at its bit 0. -/
theorem byte7_div_16 (x k : Nat) : (x ||| k * 16) / 16 = k ||| x / 16 := by
  have h := Nat.or_div_two_pow (a := x) (b := k * 16) (n := 4)
  rwa [show k * 16 / 2 ^ 4 = k by omega, Nat.or_comm (x / 2 ^ 4)] at h

/-- A format keeps its value under the codec's bit where it has that bit already. -/
theorem or_codecBit_eq_self_iff : ∀ (x : Fin 32) (b : Fin 2), x.val ||| b.val * 16 = x.val ↔ b.val ≤ x.val / 16 := by decide

/-- A codec keeps its value under the format's bit where it has that bit already. -/
theorem or_fmtBit_eq_self_iff : ∀ (k : Fin 16) (b : Fin 2), k.val ||| b.val = k.val ↔ b.val ≤ k.val % 2 := by decide

/-- Both fields of byte 7 survive exactly when each has the other's bit, that is when the two bits are equal (R103). -/
theorem byte7_exact_iff {x k : Nat} (hx : x < 32) (hk : k < 16) :
    (x ||| k % 2 * 16 = x ∧ k ||| x / 16 = k) ↔ k % 2 = x / 16 := by
  have hfmt := or_codecBit_eq_self_iff ⟨x, hx⟩ ⟨k % 2, by omega⟩
  have hcodec := or_fmtBit_eq_self_iff ⟨k, hk⟩ ⟨x / 16, by omega⟩
  simp only at hfmt hcodec
  rw [hfmt, hcodec]
  omega

/-! ### The round trip of a header (R104) -/

section
variable {reg : Registry} {f : Fields} {h : Vector Byte 28}

theorem HeaderOf.tag_byte4 (hh : HeaderOf f h) : h[4].toNat / 32 = f.tag.toNat := by
  have hb := hh.byte4
  have hr := f.rate.isLt
  omega

theorem HeaderOf.rate_byte4 (hh : HeaderOf f h) : h[4].toNat % 32 = f.rate.toNat := by
  have hb := hh.byte4
  have hr := f.rate.isLt
  omega

/-- Where the two fields of byte 7 agree at their shared bit, the header carries both. -/
theorem HeaderOf.fmt_codec_byte7 (hh : HeaderOf f h) (h7 : f.codec.toNat % 2 = f.fmt.toNat / 16) :
    h[7].toNat % 32 = f.fmt.toNat ∧ h[7].toNat / 16 = f.codec.toNat := by
  rw [hh.byte7, byte7_mod_32 f.fmt.isLt, byte7_div_16]
  exact (byte7_exact_iff f.fmt.isLt f.codec.isLt).2 h7

/-- The header of an encodable tuple passes every gate of `Unpack`, which are then those of `Validate`. -/
theorem HeaderOf.decodable (hh : HeaderOf f h) (hf : Encodable reg f.toHeaderConfig)
    (h7 : f.codec.toNat % 2 = f.fmt.toNat / 16) : Decodable28 reg h := by
  obtain ⟨hfmt, hcodec⟩ := hh.fmt_codec_byte7 h7
  refine ⟨hh.magic, ?_, ?_, ?_, ?_⟩
  · rw [hh.tag_byte4]
    exact hf.tag
  · rw [hh.tag_byte4, hh.rate_byte4]
    exact hf.rate
  · rw [hh.tag_byte4, hfmt]
    exact hf.fmt
  · rw [hcodec]
    exact hf.codec

/-- The fields read from the header of an encodable tuple are that tuple's, but for the name. -/
theorem HeaderOf.fields_eq {g : Fields} (hh : HeaderOf f h) (hg : FieldsOf h g) (hf : Encodable reg f.toHeaderConfig)
    (h7 : f.codec.toNat % 2 = f.fmt.toNat / 16) : g = { f with name := g.name, namelen := g.namelen } := by
  obtain ⟨hfmt, hcodec⟩ := hh.fmt_codec_byte7 h7
  have htag : g.tag = f.tag := BitVec.eq_of_toNat_eq (hg.tag.trans hh.tag_byte4)
  have hrate : g.rate = f.rate := BitVec.eq_of_toNat_eq (hg.rate.trans hh.rate_byte4)
  have hsamp : g.samp = f.samp :=
    BitVec.eq_of_toNat_eq (by rw [hg.samp, hh.byte5]; exact Nat.sub_add_cancel hf.samp.1)
  have hchan : g.chan = f.chan :=
    BitVec.eq_of_toNat_eq (by rw [hg.chan, hh.byte6]; exact Nat.sub_add_cancel hf.chan.1)
  have hfmt' : g.fmt = f.fmt := BitVec.eq_of_toNat_eq (hg.fmt.trans hfmt)
  have hcodec' : g.codec = f.codec := BitVec.eq_of_toNat_eq (hg.codec.trans hcodec)
  have hframe : g.frame = f.frame := BitVec.eq_of_toNat_eq (hg.frame.trans hh.frame)
  rw [← htag, ← hrate, ← hsamp, ← hchan, ← hfmt', ← hcodec', ← hframe]

/-- The name read from the header of a tuple is its encoded name. -/
theorem HeaderOf.name_eq {g : Fields} (hh : HeaderOf f h) (hg : FieldsOf h g) : g.name = nameEnc f.name f.namelen := by
  ext1 k hk
  exact (hg.name ⟨k, hk⟩).trans ((hh.name ⟨k, hk⟩).trans (getElem_nameEnc f.name f.namelen ⟨k, hk⟩).symm)

end

/-- Settles O29: `Pack` gives the header of the tuple, that header passes the gates of `Unpack`, and each field read from it
is the one it carries. -/
theorem unpackOfPackIsTheTuple : Obligations.UnpackOfPackIsTheTuple := by
  intro reg f hf h7
  have hh : HeaderOf f (pack f) := headerOf_pack hf
  have hg := fieldsOf_headerFields (pack f)
  have hname := hh.name_eq hg
  refine ⟨headerFields (pack f), (unpack_ok_iff _ _).2 (hh.decodable hf h7), hh.fields_eq hg hf h7, fun i => ?_, ?_⟩
  · rw [hname]
    exact getElem_nameEnc f.name f.namelen i
  · exact nameLen_unique (hname ▸ hg.namelen) (nameLen_nameDec _)

/-! ### The first gate that fails (R94, R98) -/

section
variable {reg : Registry} {c : HeaderConfig} {h : Vector Byte 28} {r r' : ErrorReport}

/-- A gate of `Validate` that fails leaves the tuple unencodable. -/
theorem EncodeGate.not_encodable (hr : EncodeGate reg c r) : ¬ Encodable reg c := by
  intro hc
  have ht := hc.tag
  cases hr with
  | v1 | v2 => omega
  | v3 _ hn => exact hn hc.rate
  | v4 _ _ hn => exact hn hc.samp
  | v5 _ _ _ hn => exact hn hc.chan
  | v6 _ _ _ _ hn => exact hn hc.fmt
  | v7 _ _ _ _ _ hn => exact hn hc.codec

/-- Only one gate of `Validate` is the first to fail: of two, the later asks that the earlier pass. -/
theorem EncodeGate.unique (hr : EncodeGate reg c r) (hr' : EncodeGate reg c r') : r = r' := by
  cases hr with
  | v1 => cases hr' with | v1 => rfl | _ => omega
  | v2 => cases hr' with | v2 => rfl | _ => omega
  | v3 => cases hr' with | v3 => rfl | v1 | v2 => omega | _ => contradiction
  | v4 => cases hr' with | v4 => rfl | v1 | v2 => omega | _ => contradiction
  | v5 => cases hr' with | v5 => rfl | v1 | v2 => omega | _ => contradiction
  | v6 => cases hr' with | v6 => rfl | v1 | v2 => omega | _ => contradiction
  | v7 => cases hr' with | v7 => rfl | v1 | v2 => omega | _ => contradiction

/-- The first gate that fails is the one whose error `Validate` raises. -/
theorem encodeGate_iff : EncodeGate reg c r ↔ ∃ e, validate reg c = .error e ∧ r = reportOf e := by
  rcases validate_spec reg c with ⟨hv, hc⟩ | ⟨e, hv, hgate, -⟩
  · exact ⟨fun hr => absurd hc hr.not_encodable, fun ⟨e, he, _⟩ => by cases hv.symm.trans he⟩
  · refine ⟨fun hr => ⟨e, hv, hr.unique hgate⟩, ?_⟩
    rintro ⟨e', he', rfl⟩
    cases hv.symm.trans he'
    exact hgate

/-- A gate of `Unpack` that fails leaves the header undecodable. -/
theorem DecodeGate.not_decodable (hr : DecodeGate reg h r) : ¬ Decodable28 reg h := by
  intro hd
  have ht := hd.tag
  cases hr with
  | u1 hn => exact hn hd.magic
  | u2 | u3 => omega
  | u4 _ _ hn => exact hn hd.rate
  | u5 _ _ _ hn => exact hn hd.fmt
  | u6 _ _ _ _ hn => exact hn hd.codec

/-- Only one gate of `Unpack` is the first to fail: of two, the later asks that the earlier pass. -/
theorem DecodeGate.unique (hr : DecodeGate reg h r) (hr' : DecodeGate reg h r') : r = r' := by
  cases hr with
  | u1 => cases hr' with | u1 => rfl | _ => contradiction
  | u2 => cases hr' with | u2 => rfl | u1 => contradiction | _ => omega
  | u3 => cases hr' with | u3 => rfl | u1 => contradiction | _ => omega
  | u4 => cases hr' with | u4 => rfl | u2 | u3 => omega | _ => contradiction
  | u5 => cases hr' with | u5 => rfl | u2 | u3 => omega | _ => contradiction
  | u6 => cases hr' with | u6 => rfl | u2 | u3 => omega | _ => contradiction

/-- The first gate that fails is the one whose error `Unpack` raises. -/
theorem decodeGate_iff : DecodeGate reg h r ↔ ∃ e, unpack reg h = .error e ∧ r = reportOf e := by
  rcases unpack_spec reg h with ⟨hu, hd⟩ | ⟨e, hu, hgate, -⟩
  · exact ⟨fun hr => absurd hd hr.not_decodable, fun ⟨e, he, _⟩ => by cases hu.symm.trans he⟩
  · refine ⟨fun hr => ⟨e, hu, hr.unique hgate⟩, ?_⟩
    rintro ⟨e', he', rfl⟩
    cases hu.symm.trans he'
    exact hgate

end

/-! ### REG_VBAN at byte 7 (R82 to R84, R103) -/

theorem lt_length_of_hasEntry_tableOf {α : Type} {l : List α} {i : Nat} (h : HasEntry (tableOf l) i) : i < l.length := by
  obtain ⟨e, he⟩ := h
  obtain ⟨hi, hl⟩ := Vector.getElem?_eq_some_iff.1 he
  simp only [tableOf, Vector.getElem_ofFn] at hl
  exact (List.getElem?_eq_some_iff.1 hl).1

/-- Every format of REG_VBAN has an index below 16. -/
theorem fmt_lt_of_fmtKnown_vban {t i : Nat} (h : FmtKnown registryVban t i) : i < 16 := by
  rcases h with ⟨-, h⟩ | ⟨-, h⟩ | ⟨-, h⟩
  · exact Nat.lt_of_lt_of_le (lt_length_of_hasEntry_tableOf h) (by decide)
  · exact Nat.lt_of_lt_of_le (lt_length_of_hasEntry_tableOf h) (by decide)
  · exact Nat.lt_of_lt_of_le (lt_length_of_hasEntry_tableOf h) (by decide)

theorem errCode_injective : Function.Injective errCode := by intro a b; cases a <;> cases b <;> decide

theorem fldCode_injective : Function.Injective fldCode := by intro a b; cases a <;> cases b <;> decide

/-- An error is known by the numbers it reports. -/
theorem reportOf_injective : Function.Injective reportOf := by
  rintro ⟨err, fld, raw⟩ ⟨err', fld', raw'⟩ h
  obtain ⟨hcode, hfld, hraw⟩ := ErrorReport.mk.inj h
  obtain rfl : err = err' := errCode_injective (BitVec.eq_of_toNat_eq hcode)
  obtain rfl : fld = fld' := fldCode_injective (BitVec.eq_of_toNat_eq hfld)
  obtain rfl : raw = raw' := BitVec.eq_of_toNat_eq hraw
  rfl

/-- A header whose format does not resolve raises InvalidPacketAttribute with the format it carries (U5). -/
theorem unpack_of_fmt_unknown {reg : Registry} {h : Vector Byte 28} (hmagic : MagicOk h) (ht : h[4].toNat / 32 < 3)
    (hr : RateKnown reg (h[4].toNat / 32) (h[4].toNat % 32)) (hf : ¬ FmtKnown reg (h[4].toNat / 32) (h[7].toNat % 32)) :
    unpack reg h = .error ⟨.invalidPacketAttribute, .format, BitVec.ofNat 32 (h[7].toNat % 32)⟩ := by
  obtain ⟨e, he, hrep⟩ := decodeGate_iff.1 (DecodeGate.u5 hmagic ht hr hf)
  rw [he]
  refine congrArg _ (reportOf_injective (hrep.symm.trans ?_))
  have hraw : (BitVec.ofNat 32 (h[7].toNat % 32)).toNat = h[7].toNat % 32 := by
    rw [BitVec.toNat_ofNat]
    omega
  exact (report_of_codes (· = (⟨0x03, 6, h[7].toNat % 32⟩ : ErrorReport)) rfl rfl hraw rfl).symm

/-- An odd codec moves a format of REG_VBAN to an index without an entry. -/
theorem unpack_pack_vban_of_odd {f : Fields} (hf : Encodable registryVban f.toHeaderConfig)
    (hk : f.codec.toNat % 2 = 1) : unpack registryVban (pack f) =
      .error ⟨.invalidPacketAttribute, .format, BitVec.ofNat 32 (f.fmt.toNat + 16)⟩ := by
  have hh : HeaderOf f (pack f) := headerOf_pack hf
  have hfmt : (pack f)[7].toNat % 32 = f.fmt.toNat + 16 := by
    rw [hh.byte7, byte7_mod_32 f.fmt.isLt, hk]
    exact Nat.or_two_pow_eq_add_of_lt (n := 4) (fmt_lt_of_fmtKnown_vban hf.fmt)
  rw [← hfmt]
  refine unpack_of_fmt_unknown hh.magic ?_ ?_ fun hknown => ?_
  · rw [hh.tag_byte4]
    exact hf.tag
  · rw [hh.tag_byte4, hh.rate_byte4]
    exact hf.rate
  · have := fmt_lt_of_fmtKnown_vban hknown
    omega

/-- Settles O28: byte 7 is the OR of both fields, so each is read with the other's bit; under REG_VBAN the format's bit is 0,
which an odd codec breaks (U5) and an even one meets (R104). -/
theorem byte7OverlapLaw : Obligations.Byte7OverlapLaw := by
  intro f
  have hfmt : (pack f)[7].toNat % 32 = f.fmt.toNat ||| f.codec.toNat % 2 * 16 := by
    rw [toNat_pack_byte7, byte7_mod_32 f.fmt.isLt]
  have hcodec : (pack f)[7].toNat / 16 = f.codec.toNat ||| f.fmt.toNat / 16 := by
    rw [toNat_pack_byte7, byte7_div_16]
  refine ⟨hfmt, hcodec, ?_, fun hf => ⟨fmt_lt_of_fmtKnown_vban hf.fmt, fun hk => ?_, fun hk => ?_⟩⟩
  · rw [hfmt, hcodec]
    exact byte7_exact_iff f.fmt.isLt f.codec.isLt
  · exact unpack_pack_vban_of_odd hf (by omega)
  · have hlt := fmt_lt_of_fmtKnown_vban hf.fmt
    obtain ⟨g, hu, hg, -⟩ := unpackOfPackIsTheTuple registryVban f hf (by omega)
    exact ⟨g, hu, by rw [hg], by rw [hg]⟩

/-! ### ENCODE and DECODE (R100, R101) -/

theorem bodyOf_encode (s : State) :
    bodyOf .encode s = (validate s.params.reg s.f.toHeaderConfig).map fun _ => s.headerProduced (pack s.f) := by
  simp only [bodyOf, encodeBody]
  cases validate s.params.reg s.f.toHeaderConfig <;> rfl

theorem bodyOf_decode (s : State) :
    bodyOf .decode s = (unpack s.params.reg s.hdr).map fun f => (s.writeFields f).headerProduced s.hdr := by
  simp only [bodyOf, decodeBody]
  cases unpack s.params.reg s.hdr <;> rfl

/-- The body of the command `i` on the state `s` reaches `ok` exactly where `Pass` holds, and raises exactly the errors
that `Gate` reports. -/
structure GatedBy (i : Instr) (s : State) (Pass : Prop) (Gate : ErrorReport → Prop) : Prop where
  pass_iff : Pass ↔ ∃ u, bodyOf i s = .ok u
  gate_iff : ∀ r, Gate r ↔ ∃ e, bodyOf i s = .error e ∧ r = reportOf e

theorem gatedBy_encode (s : State) :
    GatedBy .encode s (Encodable s.params.reg s.f.toHeaderConfig) (EncodeGate s.params.reg s.f.toHeaderConfig) := by
  rcases validate_spec s.params.reg s.f.toHeaderConfig with ⟨hv, hc⟩ | ⟨e, hv, -, hc⟩
  · exact ⟨by simp [bodyOf_encode, hv, hc, Except.map], by simp [bodyOf_encode, encodeGate_iff, hv, Except.map]⟩
  · exact ⟨by simp [bodyOf_encode, hv, hc, Except.map], by simp [bodyOf_encode, encodeGate_iff, hv, Except.map]⟩

theorem gatedBy_decode (s : State) :
    GatedBy .decode s (Decodable28 s.params.reg s.hdr) (DecodeGate s.params.reg s.hdr) := by
  rcases unpack_spec s.params.reg s.hdr with ⟨hu, hd⟩ | ⟨e, hu, -, hd⟩
  · exact ⟨by simp [bodyOf_decode, hu, hd, Except.map], by simp [bodyOf_decode, decodeGate_iff, hu, Except.map]⟩
  · exact ⟨by simp [bodyOf_decode, hu, hd, Except.map], by simp [bodyOf_decode, decodeGate_iff, hu, Except.map]⟩

/-- A report that the error registers can hold is read back from the state that reports it. -/
theorem eq_reportOf_of_reporting {s : State} {r : ErrorReport} {e : Failure} (hcode : r.code < 2 ^ 8)
    (hfld : r.fld < 2 ^ 4) (hraw : r.raw < 2 ^ 32) (h : s.reporting r = s.raise e) : r = reportOf e := by
  have herr : BitVec.ofNat 8 r.code = errCode e.err := congrArg State.err h
  have herrFld : BitVec.ofNat 4 r.fld = fldCode e.fld := congrArg State.errFld h
  have herrVal : BitVec.ofNat 32 r.raw = e.raw := congrArg State.errVal h
  simp only [reportOf, ← herr, ← herrFld, ← herrVal, BitVec.toNat_ofNat, Nat.mod_eq_of_lt hcode, Nat.mod_eq_of_lt hfld,
    Nat.mod_eq_of_lt hraw]

namespace GatedBy
variable {i : Instr} {s : State} {Pass : Prop} {Gate : ErrorReport → Prop} {r r' : ErrorReport}

theorem success_iff (h : GatedBy i s Pass Gate) : (∃ t, exec i s = .next t ∧ t.err = 0x00) ↔ Pass := by
  rw [h.pass_iff]
  constructor
  · rintro ⟨t, ht, he⟩
    obtain ⟨u, hu, -⟩ := ok_of_err_zero ht he
    exact ⟨u, hu⟩
  · rintro ⟨u, hu⟩
    exact ⟨u.succeed, exec_of_ok hu, rfl⟩

theorem exec_of_gate (h : GatedBy i s Pass Gate) (hr : Gate r) : exec i s = .next (s.reporting r) := by
  obtain ⟨e, he, rfl⟩ := (h.gate_iff r).1 hr
  exact exec_of_error he

/-- The bounds are those of the error registers, and code 0x00 is that of success (60_exceptions.md R127). -/
theorem exec_iff_gate (h : GatedBy i s Pass Gate) (hne : r.code ≠ 0) (hcode : r.code < 2 ^ 8) (hfld : r.fld < 2 ^ 4)
    (hraw : r.raw < 2 ^ 32) : exec i s = .next (s.reporting r) ↔ Gate r := by
  refine ⟨fun hx => ?_, h.exec_of_gate⟩
  rcases exec_cases hx with ⟨u, -, hu⟩ | ⟨e, he, ht⟩
  · have herr : BitVec.ofNat 8 r.code = 0x00 := congrArg State.err hu
    have hzero : r.code % 2 ^ 8 = 0 := by simpa using congrArg BitVec.toNat herr
    omega
  · exact (h.gate_iff r).2 ⟨e, he, eq_reportOf_of_reporting hcode hfld hraw ht⟩

theorem not_pass_iff (h : GatedBy i s Pass Gate) : ¬ Pass ↔ ∃ r, Gate r := by
  simp only [h.pass_iff, h.gate_iff]
  cases bodyOf i s <;> simp

theorem unique (h : GatedBy i s Pass Gate) (hr : Gate r) (hr' : Gate r') : r = r' := by
  obtain ⟨e, he, rfl⟩ := (h.gate_iff r).1 hr
  obtain ⟨e', he', rfl⟩ := (h.gate_iff r').1 hr'
  cases he.symm.trans he'
  rfl

end GatedBy

/-- Settles O24: an encodable tuple is packed (R96), and else ENCODE reports the error that `Validate` raises. -/
theorem encodeCommand : Obligations.EncodeCommand := fun s =>
  ⟨fun h => ⟨_, exec_encode_of_encodable h, headerOf_pack h, rfl⟩, fun _ hr => (gatedBy_encode s).exec_of_gate hr⟩

/-- DECODE of a decodable header writes its fields (40_header_codec.md R101). -/
theorem exec_decode_of_decodable {s : State} (h : Decodable28 s.params.reg s.hdr) :
    exec .decode s = .next ((s.writeFields (headerFields s.hdr)).headerProduced s.hdr).succeed :=
  exec_of_ok (by rw [bodyOf_decode, (unpack_ok_iff _ _).2 h]; rfl)

/-- Settles O25: the fields of a decodable header are written (R99), and else DECODE reports the error that `Unpack`
raises. -/
theorem decodeCommand : Obligations.DecodeCommand := fun s =>
  ⟨fun h => ⟨_, exec_decode_of_decodable h, fieldsOf_headerFields s.hdr, rfl⟩,
    fun _ hr => (gatedBy_decode s).exec_of_gate hr⟩

/-- Settles O26: both commands run behind gates, and what is asked holds of every command that does. -/
theorem gatesAreExhaustiveAndExclusive : Obligations.GatesAreExhaustiveAndExclusive := by
  intro s
  have henc := gatedBy_encode s
  have hdec := gatedBy_decode s
  exact ⟨henc.success_iff, hdec.success_iff,
    fun r hne hcode hfld hraw => ⟨henc.exec_iff_gate hne hcode hfld hraw, hdec.exec_iff_gate hne hcode hfld hraw⟩,
    ⟨henc.not_pass_iff, fun _ _ => henc.unique⟩, ⟨hdec.not_pass_iff, fun _ _ => hdec.unique⟩⟩

end Sys2Proof.Machine
end

section
/-! PROOFS. The statements of 41_packet_framer.md: PKT_CREATE, PKT_ATTACH and PKT_DECODE (R108 to R110), the packet and the
payload that they show (R111 to R115), and what leaves the packet as it is (R116). -/

namespace Sys2Proof.Machine

/-! ### The packet that a state shows (R24, R40, R57, R58) -/

section
variable {s t : State}

theorem bytesView_of_lt {k : Nat} (h : k < s.pktLen.toNat) : s.bytesView k = s.pktByte k := if_pos h

theorem bytesView_of_le {k : Nat} (h : s.pktLen.toNat ≤ k) : s.bytesView k = 0x00 := if_neg (Nat.not_lt.2 h)

theorem payloadView_of_lt {j : Nat} (hpv : s.pv = true) (h : 28 + j < s.pktLen.toNat) :
    s.payloadView j = s.pktByte (28 + j) := by
  rw [payloadView_eq, if_pos ⟨hpv, h⟩]

/-- PKT holds the bytes `bs` from index 0 on, and PKTLEN is their number. -/
structure HoldsPacket (t : State) (bs : List Byte) : Prop where
  len  : t.pktLen.toNat = bs.length
  byte : ∀ k (hk : k < bs.length), t.pktByte k = bs[k]

/-- A packet just set is held, since PKTLEN has room for the length of every packet that a command makes. -/
theorem holdsPacket_of_set {bs : List Byte} (hpkt : t.pkt = (s.setPacket bs).pkt)
    (hlen : t.pktLen = (s.setPacket bs).pktLen) (h : bs.length ≤ 1436) : HoldsPacket t bs where
  len := by
    rw [hlen, setPacket_pktLen, BitVec.toNat_ofNat]
    exact Nat.mod_eq_of_lt (by omega)
  byte _ hk := pktByte_setPacket hpkt hk

theorem eq_dbufHeader {h : Vector Byte 28} (hbytes : ∀ k : Fin 28, h[k] = s.dbufByte k.val) : h = s.dbufHeader := by
  ext1 k hk
  exact (hbytes ⟨k, hk⟩).trans (getElem_dbufHeader s ⟨k, hk⟩).symm

end

/-! ### What each framer command answers (R108 to R110) -/

/-- A command whose body raises reports the numbers of the error's codes and of its raw value. -/
theorem exec_reports {i : Instr} {s : State} {e : Err} {f : Fld} {raw : Word} {c k n : Nat}
    (hb : bodyOf i s = .error ⟨e, f, raw⟩) (hc : (errCode e).toNat = c) (hk : (fldCode f).toNat = k)
    (hn : raw.toNat = n) : exec i s = .next (s.reporting ⟨c, k, n⟩) := by
  subst hc hk hn
  exact exec_of_error hb

section
variable {s t : State}

/-- PKT_CREATE behind its gate C1 (R108). -/
theorem exec_pktCreate_of_hv (h : s.hv = true) :
    ∃ t, exec .pktCreate s = .next t ∧ HoldsPacket t s.hdr.toList ∧
      t = { s with pkt := t.pkt, pktEpoch := t.pktEpoch, pktLen := 28, pv := true, hd := false,
                   err := 0x00, errFld := 0, errVal := 0 } := by
  have hb : bodyOf .pktCreate s = .ok { s.setPacket s.hdr.toList with pv := true, hd := false } := by
    simp [bodyOf, pktCreateBody, h]
  refine ⟨_, exec_of_ok hb, holdsPacket_of_set (s := s) rfl rfl (by simp), ?_⟩
  simp [State.setPacket, State.succeed]

/-- PKT_ATTACH behind its gates A1, A2 and A3 (R109). -/
theorem exec_pktAttach_of_open (hpv : s.pv = true) (hhd : s.hd = false) (hn : s.dlen.toNat ≤ 1408) :
    ∃ t, exec .pktAttach s = .next t ∧ HoldsPacket t (s.pktBytes 28 ++ s.dbufBytes s.dlen.toNat) ∧
      t = { s with pkt := t.pkt, pktEpoch := t.pktEpoch, pktLen := t.pktLen, hd := true,
                   err := 0x00, errFld := 0, errVal := 0 } := by
  have hb : bodyOf .pktAttach s = .ok { s.setPacket (s.pktBytes 28 ++ s.dbufBytes s.dlen.toNat) with hd := true } := by
    simp [bodyOf, pktAttachBody, hpv, hhd, show ¬ 1436 < 28 + s.dlen.toNat by omega]
  exact ⟨_, exec_of_ok hb, holdsPacket_of_set (s := s) rfl rfl (by simp; omega), rfl⟩

/-- Between P1 and P2 the body of PKT_DECODE is `Unpack` and, after it, the new header, fields and envelope. -/
theorem bodyOf_pktDecode (hmin : 28 ≤ s.dlen.toNat) (hmax : s.dlen.toNat ≤ 1436) :
    bodyOf .pktDecode s = (unpack s.params.reg s.dbufHeader).map fun f =>
      { ((s.headerProduced s.dbufHeader).writeFields f).setPacket (s.dbufBytes s.dlen.toNat) with
        pv := true, hd := true } := by
  simp only [bodyOf, pktDecodeBody, if_neg (Nat.not_lt.2 hmin), if_neg (Nat.not_lt.2 hmax)]
  cases unpack s.params.reg s.dbufHeader <;> rfl

/-- PKT_DECODE behind its gates P1 and P2 and those of `Unpack` (R110). -/
theorem exec_pktDecode_of_decodable (hmin : 28 ≤ s.dlen.toNat) (hmax : s.dlen.toNat ≤ 1436)
    (hdec : Decodable28 s.params.reg s.dbufHeader) :
    ∃ t, exec .pktDecode s = .next t ∧ HoldsPacket t (s.dbufBytes s.dlen.toNat) ∧ FieldsOf s.dbufHeader t.f ∧
      t = { s with hdr := s.dbufHeader, f := t.f, pkt := t.pkt, pktEpoch := t.pktEpoch, pktLen := t.pktLen,
                   hv := true, pset := true, pv := true, hd := true, err := 0x00, errFld := 0, errVal := 0 } := by
  have hb := bodyOf_pktDecode hmin hmax
  rw [(unpack_ok_iff _ _).2 hdec] at hb
  exact ⟨_, exec_of_ok hb, holdsPacket_of_set (s := s) rfl rfl (by simpa using hmax), fieldsOf_headerFields _, rfl⟩

/-- A PKT_ATTACH that succeeds has passed A1, A2 and A3. -/
theorem gates_of_pktAttach_ok (h : exec .pktAttach s = .next t) (he : t.err = 0x00) :
    s.pv = true ∧ s.hd = false ∧ s.dlen.toNat ≤ 1408 := by
  obtain ⟨u, hu, -⟩ := ok_of_err_zero h he
  have hcases := body_ok_cases hu
  simp only [reduceCtorEq, false_and, exists_false, true_and, false_or, or_false] at hcases
  obtain ⟨hpv, hhd, hn, -⟩ := hcases
  exact ⟨hpv, hhd, hn⟩

/-- A PKT_DECODE that succeeds has passed P1, P2 and the gates of `Unpack`. -/
theorem gates_of_pktDecode_ok (h : exec .pktDecode s = .next t) (he : t.err = 0x00) :
    28 ≤ s.dlen.toNat ∧ s.dlen.toNat ≤ 1436 ∧ Decodable28 s.params.reg s.dbufHeader := by
  obtain ⟨u, hu, -⟩ := ok_of_err_zero h he
  have hcases := body_ok_cases hu
  simp only [reduceCtorEq, false_and, exists_false, true_and, false_or, or_false] at hcases
  obtain ⟨hmin, hmax, hdec, -⟩ := hcases
  exact ⟨hmin, hmax, hdec⟩

end

/-- Settles O35: the new packet is the 28 bytes of HDR, and without HV the command raises NotReady. -/
theorem pktCreateCommand : Obligations.PktCreateCommand := by
  intro s
  refine ⟨fun hhv => ?_, fun hhv => ?_⟩
  · obtain ⟨t, ht, hpacket, hframe⟩ := exec_pktCreate_of_hv hhv
    have hlen := hpacket.len
    simp only [Vector.length_toList] at hlen
    refine ⟨t, ht, fun k => ?_, fun k hk => bytesView_of_le (by omega), hframe⟩
    exact (hpacket.byte k (by simp)).trans (Vector.getElem_toList _)
  · refine exec_reports (e := .notReady) (f := .headerState) (raw := 0) ?_ rfl rfl rfl
    simp [bodyOf, pktCreateBody, hhv]

/-- Settles O36: the new packet is PKT[0..27] and then the bytes of DBUF, and each of A1, A2, A3 raises its own error. -/
theorem pktAttachCommand : Obligations.PktAttachCommand := by
  intro s
  refine ⟨fun hpv hhd hn => ?_, fun hpv => ?_, fun hpv hhd => ?_, fun hpv hhd hn => ?_⟩
  · obtain ⟨t, ht, hpacket, hframe⟩ := exec_pktAttach_of_open hpv hhd hn
    have hbs : (s.pktBytes 28 ++ s.dbufBytes s.dlen.toNat).length = 28 + s.dlen.toNat := by simp
    have hlen := hpacket.len.trans hbs
    refine ⟨t, ht, fun j hj => ?_, fun k hk => ?_, hlen, fun k hk => bytesView_of_le (by omega), hframe⟩
    · rw [hpacket.byte _ (by omega), List.getElem_append_right (by simp), getElem_dbufBytes]
      simp
    · rw [hpacket.byte _ (by omega), List.getElem_append_left (by simpa using hk), getElem_pktBytes]
  · refine exec_reports (e := .notReady) (f := .packetState) (raw := 0) ?_ rfl rfl rfl
    simp [bodyOf, pktAttachBody, hpv]
  · refine exec_reports (e := .alreadyHasData) (f := .packetState) ?_ rfl rfl (toNat_setWidth_32 s.pktLen (by decide))
    simp [bodyOf, pktAttachBody, hpv, hhd]
  · refine exec_reports (e := .payloadTooLarge) (f := .length) ?_ rfl rfl (toNat_setWidth_32 s.dlen (by decide))
    simp [bodyOf, pktAttachBody, hpv, hhd, show 1436 < 28 + s.dlen.toNat by omega]

/-- Settles O37: the new packet is the bytes of DBUF, its header the first 28 of them; P1 and P2 raise their own errors, and
`Unpack` its own. -/
theorem pktDecodeCommand : Obligations.PktDecodeCommand := by
  intro s h hbytes
  obtain rfl := eq_dbufHeader hbytes
  refine ⟨fun hmin hmax hdec => ?_, fun hmin => ?_, fun hmax => ?_, fun hmin hmax r hr => ?_⟩
  · obtain ⟨t, ht, hpacket, hfields, hframe⟩ := exec_pktDecode_of_decodable hmin hmax hdec
    have hlen := hpacket.len.trans (length_dbufBytes s _)
    refine ⟨t, ht, hfields, fun k hk => ?_, hlen, fun k hk => bytesView_of_le (by omega), hframe⟩
    rw [hpacket.byte k (by simpa using hk), getElem_dbufBytes]
  · refine exec_reports (e := .invalidHeader) (f := .length) ?_ rfl rfl (toNat_setWidth_32 s.dlen (by decide))
    simp [bodyOf, pktDecodeBody, hmin]
  · refine exec_reports (e := .payloadTooLarge) (f := .length) ?_ rfl rfl (toNat_setWidth_32 s.dlen (by decide))
    simp [bodyOf, pktDecodeBody, hmax, show ¬ s.dlen.toNat < 28 by omega]
  · obtain ⟨e, he, rfl⟩ := decodeGate_iff.1 hr
    exact exec_of_error (by rw [bodyOf_pktDecode hmin hmax, he]; rfl)

/-! ### The views after the framer commands (R111 to R115) -/

/-- Settles O38: PKTLEN is DLEN and PKT holds the bytes of DBUF, which is what the views show. -/
theorem pktDecodeReproducesItsInput : Obligations.PktDecodeReproducesItsInput := by
  intro s t h he
  obtain ⟨hmin, hmax, hdec⟩ := gates_of_pktDecode_ok h he
  obtain ⟨hsplit, -⟩ := pktDecodeCommand s s.dbufHeader (getElem_dbufHeader s)
  obtain ⟨u, hu, -, hbyte, hlen, -, hframe⟩ := hsplit hmin hmax hdec
  cases hu.symm.trans h
  have hpv : t.pv = true := (congrArg State.pv hframe :)
  have hhdr : t.hdr = s.dbufHeader := (congrArg State.hdr hframe :)
  refine ⟨hlen, ?_, fun k hk => ?_, fun j hj => ?_, fun k => ?_⟩
  · rw [pldLen_toNat hpv (by omega), hlen]
  · rw [bytesView_of_lt (by omega), hbyte k hk]
  · rw [payloadView_of_lt hpv (by omega), hbyte _ hj]
  · rw [hhdr, getElem_dbufHeader]

/-- After PKT_CREATE, any host writes of DBUF and DLEN, and PKT_ATTACH the packet is the header and then DBUF (R108, R109). -/
theorem framed_packet {s a a' b : State} (hhv : s.hv = true) (ha : exec .pktCreate s = .next a)
    (ha' : a' = { a with dlen := a'.dlen, dbuf := a'.dbuf }) (hb : exec .pktAttach a' = .next b) (he : b.err = 0x00) :
    a'.dlen.toNat ≤ 1408 ∧ b.pktLen.toNat = 28 + a'.dlen.toNat ∧ (∀ k : Fin 28, b.bytesView k.val = s.hdr[k]) ∧
      ∀ j, j < a'.dlen.toNat → b.bytesView (28 + j) = a'.dbufByte j := by
  obtain ⟨hpv, hhd, hn⟩ := gates_of_pktAttach_ok hb he
  obtain ⟨hattach, -⟩ := pktAttachCommand a'
  obtain ⟨b', hb', hpayload, hkept, hlen, -⟩ := hattach hpv hhd hn
  cases hb'.symm.trans hb
  obtain ⟨hcreate, -⟩ := pktCreateCommand s
  obtain ⟨a₁, ha₁, hheader, -⟩ := hcreate hhv
  cases ha₁.symm.trans ha
  have hpkt : a'.pkt = a.pkt := (congrArg State.pkt ha' :)
  have hepoch : a'.pktEpoch = a.pktEpoch := (congrArg State.pktEpoch ha' :)
  refine ⟨hn, hlen, fun k => ?_, fun j hj => ?_⟩
  · rw [bytesView_of_lt (by omega), hkept _ k.isLt, ← hheader k, State.pktByte, State.pktByte, hpkt, hepoch]
  · rw [bytesView_of_lt (by omega), hpayload j hj]

/-- Settles O39: the copy's first 28 bytes are the header, so that PKT_DECODE succeeds exactly where `Unpack` does, and then
gives its input back (R114); `Unpack` takes a packed header whose two fields of byte 7 agree (R104). -/
theorem frameThenDeframe : Obligations.FrameThenDeframe := by
  intro s a a' b c hhv ha ha' hb he hparams hdlen hcopy
  refine ⟨?_, fun f r hf hh hr h7 => hr.not_decodable (hh.decodable hf h7)⟩
  obtain ⟨hn, hlen, hheader, hpayload⟩ := framed_packet hhv ha ha' hb he
  have hhdr : s.hdr = c.dbufHeader := eq_dbufHeader fun k => by rw [hcopy _ (by omega), hheader]
  obtain ⟨hsplit, -, -, hgate⟩ := pktDecodeCommand c c.dbufHeader (getElem_dbufHeader c)
  have hmin : 28 ≤ c.dlen.toNat := by omega
  have hmax : c.dlen.toNat ≤ 1436 := by omega
  rw [hhdr, ← hparams]
  rcases unpack_spec c.params.reg c.dbufHeader with ⟨-, hdec⟩ | ⟨e, -, hr, -⟩
  · obtain ⟨d, hd, -, -, -, -, hframe⟩ := hsplit hmin hmax hdec
    have hok : d.err = 0x00 := (congrArg State.err hframe :)
    obtain ⟨-, hpld, -, hview, -⟩ := pktDecodeReproducesItsInput c d hd hok
    refine .inl ⟨d, hd, hok, (congrArg State.hdr hframe :), by omega, fun j hj => ?_⟩
    rw [hview j (by omega), hcopy _ (by omega), hpayload j hj]
  · exact .inr ⟨_, hr, hgate hmin hmax _ hr⟩

/-! ### The size of a packet (R113) -/

/-- The invariant at power-on (R148) and its step (R44), over a run. -/
theorem Reached.blockInv {s : State} (h : Reached s) : BlockInv s := by
  induction h with
  | powerOn p port hp hport => exact invariantAtReset p port hp hport
  | next s t _ hstep ih => exact stepKeepsTheInvariant s t ih hstep

theorem BlockInv.pktLen_le {s : State} (hs : BlockInv s) : s.pktLen.toNat ≤ 1436 := by
  cases hpv : s.pv with
  | true => exact (hs.envelope hpv).2
  | false =>
    have hlen := (hs.noEnvelope hpv).1
    omega

theorem BlockInv.pldLen_le {s : State} (hs : BlockInv s) : s.pldLen.toNat ≤ 1408 := by
  cases hpv : s.pv with
  | true =>
    obtain ⟨hmin, hmax⟩ := hs.envelope hpv
    rw [pldLen_toNat hpv hmin]
    omega
  | false =>
    rw [pldLen_of_noEnvelope hpv]
    exact Nat.zero_le _

/-- A PKT_ATTACH that succeeded leaves an envelope with its data, which A2 rejects (R109). -/
theorem pktAttach_after_pktAttach {s t : State} (h : exec .pktAttach s = .next t) (he : t.err = 0x00) :
    exec .pktAttach t = .next (t.reporting ⟨0x05, 10, t.pktLen.toNat⟩) := by
  obtain ⟨hpv, hhd, hn⟩ := gates_of_pktAttach_ok h he
  obtain ⟨hattach, -⟩ := pktAttachCommand s
  obtain ⟨t', ht', -, -, -, -, hframe⟩ := hattach hpv hhd hn
  cases ht'.symm.trans h
  obtain ⟨-, -, hattached, -⟩ := pktAttachCommand t
  exact hattached ((congrArg State.pv hframe :).trans hpv) (congrArg State.hd hframe :)

/-- Settles O40: the lengths are the invariant's, and 1408 is the last DLEN that A3 lets pass. -/
theorem sizeCeiling : Obligations.SizeCeiling := by
  intro s hs
  refine ⟨hs.blockInv.pktLen_le, hs.blockInv.pldLen_le, fun hpv hhd => ⟨?_, ?_, fun t u ht he hu => ?_⟩⟩
  · obtain ⟨hattach, -⟩ := pktAttachCommand { s with dlen := 1408 }
    obtain ⟨t, ht, -, -, hlen, -, hframe⟩ := hattach hpv hhd (Nat.le_refl 1408)
    exact ⟨t, ht, (congrArg State.err hframe :), hlen⟩
  · obtain ⟨-, -, -, hlong⟩ := pktAttachCommand { s with dlen := 1409 }
    exact ⟨_, hlong hpv hhd (Nat.lt_succ_self 1408), rfl⟩
  · cases (pktAttach_after_pktAttach ht he).symm.trans hu
    rfl

/-! ### What leaves the packet as it is (R116) -/

/-- The elements of the state that the visible packet is read from. -/
def State.envelope (s : State) : BitVec 11 × Bool × Memory × Nat := (s.pktLen, s.pv, s.pkt, s.pktEpoch)

theorem visible_of_envelope_eq {s t : State} (h : t.envelope = s.envelope) :
    t.pktLen = s.pktLen ∧ t.pv = s.pv ∧ ∀ k, t.bytesView k = s.bytesView k := by
  simp only [State.envelope, Prod.mk.injEq] at h
  obtain ⟨hlen, hpv, hpkt, hepoch⟩ := h
  exact ⟨hlen, hpv, fun k => by simp only [State.bytesView, State.pktByte, hlen, hpkt, hepoch]⟩

theorem writePlace_envelope (s : State) (d : Word) (p : Place) : (s.writePlace d p).envelope = s.envelope := by
  obtain ⟨-, -, -, -, -, -, hpv, -, -, -, -, hpkt, hlen, hepoch⟩ := writePlace_frame s d p
  simp only [State.envelope, hpv, hpkt, hlen, hepoch]

/-- Of the commands that reach `ok`, only those of the framer write the packet. -/
theorem body_keeps_envelope {i : Instr} {s t : State} (h : bodyOf i s = .ok t)
    (hi : i ≠ .pktCreate ∧ i ≠ .pktAttach ∧ i ≠ .pktDecode) : t.envelope = s.envelope := by
  obtain ⟨hcreate, hattach, hdecode⟩ := hi
  rcases body_ok_cases h with ⟨-, rfl⟩ | ⟨-, -, rfl⟩ | ⟨-, -, rfl⟩ | ⟨hi, -⟩ | ⟨hi, -⟩ | ⟨hi, -⟩ | ⟨-, -, -, -, rfl⟩ |
    ⟨-, -, -, rfl⟩ | ⟨-, -, rfl⟩
  · rfl -- nop
  · rfl -- encode
  · rfl -- decode
  · exact absurd hi hcreate
  · exact absurd hi hattach
  · exact absurd hi hdecode
  · rfl -- loadDefaults
  · rfl -- build
  · rfl -- genCreate

/-- A command keeps the packet, unless it is one of the framer's and succeeds. -/
theorem exec_keeps_envelope {i : Instr} {s t : State} (h : exec i s = .next t)
    (hi : t.err = 0x00 → i ≠ .pktCreate ∧ i ≠ .pktAttach ∧ i ≠ .pktDecode) : t.envelope = s.envelope := by
  rcases exec_cases h with ⟨u, hu, rfl⟩ | ⟨e, -, rfl⟩
  · exact (body_keeps_envelope hu (hi rfl) :)
  · rfl

/-- Settles O41, by the cases of a step: neither the port, nor a host write, nor an illegal word reaches the packet. -/
theorem envelopeImmutability : Obligations.EnvelopeImmutability := by
  intro s t h hreset hcmd
  apply visible_of_envelope_eq
  rcases step_cases h with ⟨-, rfl⟩ | ⟨rest, hs, rfl⟩ | ⟨r, rest, hs, ⟨-, rfl⟩ | ⟨wa, -, rfl⟩ | ⟨wa, d, -, -, rfl⟩ |
    ⟨wa, d, e, -, -, -, rfl⟩ | ⟨wa, d, i, ha, hc, hd, hx⟩⟩
  · rfl
  · simp [State.nextIsReset, hs] at hreset
  · rfl
  · rfl
  · exact writePlace_envelope (s.takeAccess r) d _
  · rfl
  · rw [nextCommand_of_grant hs ha hc hd] at hcmd
    exact (exec_keeps_envelope hx (by simpa only [ne_eq, Option.some.injEq] using hcmd) :)

end Sys2Proof.Machine
end

section
/-! PROOFS. The statements of 42_generator.md: LOAD_DEFAULTS, BUILD and GEN_CREATE (R117 to R120), the frames that a run
of GEN_CREATEs writes (R122, R123), what changes the generator (R126), and that it is never a Service one (R125). -/

namespace Sys2Proof.Machine

/-! ### LOAD_DEFAULTS (R117, R118) -/

theorem padName_nameStream1 :
    padName nameStream1 = #v[0x53, 0x74, 0x72, 0x65, 0x61, 0x6D, 0x31, 0, 0, 0, 0, 0, 0, 0, 0, 0] := by decide

theorem padName_nameMidi1 : padName nameMidi1 = #v[0x4D, 0x49, 0x44, 0x49, 0x31, 0, 0, 0, 0, 0, 0, 0, 0, 0, 0, 0] := by
  decide

theorem padName_nameCommand1 :
    padName nameCommand1 = #v[0x43, 0x6F, 0x6D, 0x6D, 0x61, 0x6E, 0x64, 0x31, 0, 0, 0, 0, 0, 0, 0, 0] := by decide

/-- L1 and L2: LOAD_DEFAULTS raises the error of a tag that has no defaults (R118). -/
theorem bodyOf_loadDefaults_of_error {s : State} {t : BitVec 3} {e : Failure} (h : defaults s.params.reg t = .error e) :
    bodyOf (.loadDefaults t) s = .error e := by
  simp only [bodyOf, loadDefaultsBody, h]

/-- Settles O42: each of the tags 0, 1 and 2 has its row of the table, and L1 and L2 raise the errors of the others. -/
theorem loadDefaultsCommand : Obligations.LoadDefaultsCommand := by
  intro s t
  refine ⟨fun ht => ?_, fun h4 => ?_, fun h3 => ?_⟩
  · rcases tag_cases t with rfl | rfl | rfl | rfl | h4
    · exact ⟨_, exec_loadDefaults_of_defaults rfl, rfl, rfl, rfl,
        fun _ => ⟨rfl, rfl, rfl, rfl, rfl, padName_nameStream1⟩, nofun, nofun⟩
    · exact ⟨_, exec_loadDefaults_of_defaults rfl, rfl, rfl, rfl,
        nofun, fun _ => ⟨rfl, rfl, rfl, rfl, rfl, padName_nameMidi1⟩, nofun⟩
    · exact ⟨_, exec_loadDefaults_of_defaults rfl, rfl, rfl, rfl,
        nofun, nofun, fun _ => ⟨rfl, rfl, rfl, rfl, rfl, padName_nameCommand1⟩⟩
    · exact absurd ht (by decide)
    · omega
  · exact exec_reports (bodyOf_loadDefaults_of_error (if_pos h4)) rfl rfl (toNat_setWidth_32 t (by decide))
  · obtain rfl := (tag_eq_three t).2 h3
    exact exec_reports (bodyOf_loadDefaults_of_error rfl) rfl rfl rfl

/-! ### BUILD and GEN_CREATE (R119, R120) -/

section
variable {s : State}

/-- Behind its gate B1 the body of BUILD is `Validate` and, after it, the copy (R119). -/
theorem bodyOf_build (hp : s.pset = true) :
    bodyOf .build s = (validate s.params.reg s.f.toHeaderConfig).map fun _ =>
      { s with g := s.f.toHeaderConfig, counter := 0, gv := true } := by
  simp only [bodyOf, buildBody, hp, Bool.not_true, Bool.false_eq_true, if_false]
  cases validate s.params.reg s.f.toHeaderConfig <;> rfl

/-- GEN_CREATE behind its gate N1 (R120). -/
theorem exec_genCreate_of_gv (hgv : s.gv = true) :
    exec .genCreate s =
      .next { s.headerProduced (pack (genFields s.g s.counter)) with counter := s.counter + 1 : State }.succeed :=
  exec_of_ok (by simp [bodyOf, genCreateBody, hgv])

end

/-- Bytes 24 to 27 of a packed header hold its frame, whatever the other fields (R75, R96). -/
theorem be32Nat_pack_frame (f : Fields) :
    be32Nat (pack f)[24] (pack f)[25] (pack f)[26] (pack f)[27] = f.frame.toNat := by
  rw [← be32_toNat]
  simp only [getElem_pack, packByte]
  exact congrArg BitVec.toNat (be32_lanes f.frame)

/-- Settles O44: encodable fields are copied, without PSET B1 raises MissingRequiredField, and else BUILD reports the error
that `Validate` raises. -/
theorem buildCommand : Obligations.BuildCommand := by
  intro s
  refine ⟨exec_build_of_encodable, fun hp => ?_, fun hp r hr => ?_⟩
  · refine exec_reports (e := .missingRequiredField) (f := .protocol) (raw := 0) ?_ rfl rfl rfl
    simp [bodyOf, buildBody, hp]
  · obtain ⟨e, he, rfl⟩ := encodeGate_iff.1 hr
    exact exec_of_error (by rw [bodyOf_build hp, he]; rfl)

/-- Settles O45: the header is the packed one of G and COUNTER, and without GV the command raises NotReady. -/
theorem genCreateCommand : Obligations.GenCreateCommand := by
  intro s
  refine ⟨fun hgv => ⟨_, exec_genCreate_of_gv hgv, headerOf_pack (f := genFields s.g s.counter), BitVec.toNat_add .., rfl⟩, fun hgv => ?_⟩
  refine exec_reports (e := .notReady) (f := .generatorState) (raw := 0) ?_ rfl rfl rfl
  simp [bodyOf, genCreateBody, hgv]

/-! ### What changes the generator (R126) -/

/-- From `s` to `t` the generator stays valid once it is, BUILD alone writes G, and BUILD and GEN_CREATE alone COUNTER; `i`
is the command that ran, if one did. -/
structure GeneratorStep (i : Option Instr) (s t : State) : Prop where
  gv      : s.gv = true → t.gv = true
  g       : i ≠ some .build → t.g = s.g
  counter : i ≠ some .build → i ≠ some .genCreate → t.counter = s.counter

theorem GeneratorStep.of_eq {i : Option Instr} {s t : State} (hgv : t.gv = s.gv) (hg : t.g = s.g)
    (hcounter : t.counter = s.counter) : GeneratorStep i s t :=
  ⟨fun h => hgv.trans h, fun _ => hg, fun _ _ => hcounter⟩

/-- Of the commands that reach `ok`, only BUILD and GEN_CREATE write the generator. -/
theorem body_generatorStep {i : Instr} {s t : State} (h : bodyOf i s = .ok t) : GeneratorStep (some i) s t := by
  rcases body_ok_cases h with ⟨-, rfl⟩ | ⟨-, -, rfl⟩ | ⟨-, -, rfl⟩ | ⟨-, -, rfl⟩ | ⟨-, -, -, -, rfl⟩ |
    ⟨-, -, -, -, rfl⟩ | ⟨-, -, -, -, rfl⟩ | ⟨rfl, -, -, rfl⟩ | ⟨rfl, -, rfl⟩
  · exact .of_eq rfl rfl rfl -- nop
  · exact .of_eq rfl rfl rfl -- encode
  · exact .of_eq rfl rfl rfl -- decode
  · exact .of_eq rfl rfl rfl -- pktCreate
  · exact .of_eq rfl rfl rfl -- pktAttach
  · exact .of_eq rfl rfl rfl -- pktDecode
  · exact .of_eq rfl rfl rfl -- loadDefaults
  · exact ⟨fun _ => rfl, fun hb => absurd rfl hb, fun hb => absurd rfl hb⟩ -- build
  · exact ⟨fun hgv => hgv, fun _ => rfl, fun _ hg => absurd rfl hg⟩ -- genCreate

theorem exec_generatorStep {i : Instr} {s t : State} (h : exec i s = .next t) : GeneratorStep (some i) s t := by
  rcases exec_cases h with ⟨u, hu, rfl⟩ | ⟨e, -, rfl⟩
  · obtain ⟨hgv, hg, hcounter⟩ := body_generatorStep hu
    exact ⟨hgv, hg, hcounter⟩
  · exact .of_eq rfl rfl rfl

/-- No step but a reset, BUILD and GEN_CREATE reaches the generator: neither the port, nor a host write, nor an illegal
word. -/
theorem step_generatorStep {s t : State} (h : step s = .next t) (hreset : s.nextIsReset = false) :
    GeneratorStep s.nextCommand s t := by
  rcases step_cases h with ⟨-, rfl⟩ | ⟨rest, hs, rfl⟩ | ⟨r, rest, hs, ⟨-, rfl⟩ | ⟨wa, -, rfl⟩ | ⟨wa, d, -, -, rfl⟩ |
    ⟨wa, d, e, -, -, -, rfl⟩ | ⟨wa, d, i, ha, hc, hd, hx⟩⟩
  · exact .of_eq rfl rfl rfl
  · simp [State.nextIsReset, hs] at hreset
  · exact .of_eq rfl rfl rfl
  · exact .of_eq rfl rfl rfl
  · obtain ⟨-, -, -, -, -, -, -, -, hgv, hg, hcounter, -⟩ :=
      writePlace_frame (s.takeAccess r) d (locate s.params.dbufCap wa)
    exact .of_eq hgv hg hcounter
  · exact .of_eq rfl rfl rfl
  · rw [nextCommand_of_grant hs ha hc hd]
    obtain ⟨hgv, hg, hcounter⟩ := exec_generatorStep hx
    exact ⟨hgv, hg, hcounter⟩

/-- Settles O48: each of the three clauses is one of those that every step but a reset keeps. -/
theorem generatorLifetime : Obligations.GeneratorLifetime := by
  intro s t h hreset
  obtain ⟨hgv, hg, hcounter⟩ := step_generatorStep h hreset
  exact ⟨hgv, hg, hcounter⟩

/-! ### The frames of a run (R122, R123) -/

/-- The command that the next step runs, it runs on the state whose port has taken the access. -/
theorem step_of_nextCommand {s : State} {i : Instr} (h : s.nextCommand = some i) :
    ∃ r, step s = exec i (s.takeAccess r) := by
  simp only [State.nextCommand] at h
  split at h
  · rename_i r rest hs
    split at h
    · rename_i wa d ha
      split at h
      · rename_i hc
        split at h
        · rename_i hd
          cases h
          exact ⟨r, by rw [step_of_write hs ha, portWrite_cmd _ _ (s.takeAccess r) hc, issueWord, hd]⟩
        · cases h
      · cases h
    all_goals cases h
  all_goals cases h

theorem performAccess_completes (r : Nat) (a : Access) (s : State) : ∃ t, performAccess r a s = .next t := by
  cases a with
  | read wa => exact ⟨_, rfl⟩
  | write wa d =>
    simp only [performAccess]
    by_cases hc : locate s.params.dbufCap wa = .reg .cmd
    · rw [portWrite_cmd _ _ _ hc, issueWord]
      cases decode d with
      | ok i => exact ⟨_, exec_eq_complete i s⟩
      | error e => exact ⟨_, rfl⟩
    · exact ⟨_, portWrite_place _ _ _ hc⟩

/-- No step faults or is refused (R156). -/
theorem step_completes (s : State) : ∃ t, step s = .next t := by
  simp only [step, runNext]
  split
  · exact ⟨_, rfl⟩
  · exact ⟨_, rfl⟩
  · split
    · exact ⟨_, rfl⟩
    · exact performAccess_completes _ _ _

section
variable {s t : State} {k : Nat}

/-- A successful BUILD leaves a valid generator whose COUNTER is 0 (R119). -/
theorem generator_after_build (h : step s = .next t) (hc : s.nextCommand = some .build) (he : t.err = 0x00) :
    t.gv = true ∧ t.counter = 0 := by
  obtain ⟨r, hr⟩ := step_of_nextCommand hc
  obtain ⟨u, hu, rfl⟩ := ok_of_err_zero (hr.symm.trans h) he
  have hcases := body_ok_cases hu
  simp only [reduceCtorEq, false_and, exists_false, true_and, false_or, or_false] at hcases
  obtain ⟨-, -, rfl⟩ := hcases
  exact ⟨rfl, rfl⟩

/-- A GEN_CREATE of a valid generator writes COUNTER as the frame of HDR, and COUNTER advances (R120). -/
theorem frame_after_genCreate (h : step s = .next t) (hc : s.nextCommand = some .genCreate) (hgv : s.gv = true) :
    be32Nat t.hdr[24] t.hdr[25] t.hdr[26] t.hdr[27] = s.counter.toNat ∧ t.counter = s.counter + 1 := by
  obtain ⟨r, hr⟩ := step_of_nextCommand hc
  cases (exec_genCreate_of_gv (s := s.takeAccess r) hgv).symm.trans (hr.symm.trans h)
  exact ⟨be32Nat_pack_frame _, rfl⟩

theorem framesWritten_succ (h : step s = .next t) :
    framesWritten (k + 1) s =
      if s.nextCommand = some .genCreate then
        be32Nat t.hdr[24] t.hdr[25] t.hdr[26] t.hdr[27] :: framesWritten k t
      else framesWritten k t := by
  simp only [framesWritten, h]

theorem run_succ (h : step s = .next t) :
    Host.Core.run Sys2Proof.core (k + 1) s = Host.Core.run Sys2Proof.core k t := by
  have h' : Sys2Proof.core.step s = .next t := h
  simp only [Host.Core.run, h']

end

/-- The `n` frames from `c` on, modulo 2^32. -/
def framesFrom (c : BitVec 32) : Nat → List Nat
  | 0 => []
  | n + 1 => c.toNat :: framesFrom (c + 1) n

theorem framesFrom_eq_map (c : BitVec 32) (n : Nat) :
    framesFrom c n = (List.range n).map fun i => (c.toNat + i) % 2 ^ 32 := by
  induction n generalizing c with
  | zero => rfl
  | succ n ih =>
    have hsucc : ∀ i, ((c + 1).toNat + i) % 2 ^ 32 = (c.toNat + (i + 1)) % 2 ^ 32 := by
      intro i
      rw [BitVec.toNat_add, show (1 : BitVec 32).toNat = 1 from rfl]
      omega
    have hc : (c.toNat + 0) % 2 ^ 32 = c.toNat := Nat.mod_eq_of_lt c.isLt
    simp only [framesFrom, ih, List.range_succ_eq_map, List.map_cons, List.map_map, Function.comp_def, hsucc, hc,
      Nat.succ_eq_add_one]

theorem length_framesFrom (c : BitVec 32) (n : Nat) : (framesFrom c n).length = n := by
  rw [framesFrom_eq_map, List.length_map, List.length_range]

/-- The frames wrap only after 2^32 of them. -/
theorem nodup_framesFrom (c : BitVec 32) {n : Nat} (hn : n ≤ 2 ^ 32) : (framesFrom c n).Nodup := by
  rw [framesFrom_eq_map]
  refine List.nodup_range.map_on fun i hi j hj hij => ?_
  rw [List.mem_range] at hi hj
  omega

/-- While a valid generator is neither rebuilt nor reset, the frames written are those from COUNTER on, in order, and
COUNTER ends one past the last of them, modulo 2^32. -/
theorem framesWritten_of_keepsGenerator {k : Nat} {s : State} (hgv : s.gv = true) (hk : keepsGenerator k s) :
    ∃ n u, framesWritten k s = framesFrom s.counter n ∧ Host.Core.run Sys2Proof.core k s = .next u ∧
      u.counter = s.counter + BitVec.ofNat 32 n := by
  induction k generalizing s with
  | zero => exact ⟨0, s, rfl, rfl, (BitVec.add_zero _).symm⟩
  | succ k ih =>
    obtain ⟨hbuild, hreset, hnext⟩ := hk
    obtain ⟨t, ht⟩ := step_completes s
    have hstep := step_generatorStep ht hreset
    obtain ⟨n, u, hframes, hrun, hcounter⟩ := ih (hstep.gv hgv) (hnext t ht)
    rw [framesWritten_succ ht, run_succ ht, hframes, hrun]
    by_cases hgen : s.nextCommand = some .genCreate
    · obtain ⟨hframe, hadvance⟩ := frame_after_genCreate ht hgen hgv
      refine ⟨n + 1, u, ?_, rfl, ?_⟩
      · rw [if_pos hgen, hframe, hadvance, framesFrom]
      · rw [hcounter, hadvance, Nat.add_comm n 1, BitVec.ofNat_add, ← BitVec.add_assoc]
        rfl
    · have hsame := hstep.counter hbuild hgen
      exact ⟨n, u, by rw [if_neg hgen, hsame], rfl, by rw [hcounter, hsame]⟩

/-- Settles O46: BUILD leaves COUNTER 0, and the frames are those from COUNTER on. -/
theorem counterSequence : Obligations.CounterSequence := by
  intro s t u k h hc he hk hrun
  obtain ⟨hgv, hzero⟩ := generator_after_build h hc he
  obtain ⟨n, u', hframes, hrun', hcounter⟩ := framesWritten_of_keepsGenerator hgv hk
  cases hrun'.symm.trans hrun
  rw [hframes, length_framesFrom, hcounter, hzero, framesFrom_eq_map]
  simp

/-- Settles O47: the frames are those from COUNTER on, in order, whoever issued the GEN_CREATEs. -/
theorem concurrentProducersNeverShareAFrame : Obligations.ConcurrentProducersNeverShareAFrame := by
  intro s k hgv hk
  obtain ⟨n, -, hframes, -⟩ := framesWritten_of_keepsGenerator hgv hk
  rw [hframes, length_framesFrom]
  exact ⟨.of_eq (framesFrom_eq_map s.counter n), nodup_framesFrom s.counter⟩

/-! ### Service (R125, R107) -/

/-- The tag of a header that this block produced or validated is one of Audio, Serial and Text. -/
theorem GoodHeader.tag_lt {reg : Registry} {h : Vector Byte 28} (hh : GoodHeader reg h) : h[4].toNat / 32 < 3 := by
  rcases hh with ⟨f, hf, hof⟩ | hdec
  · exact hof.tag_byte4 ▸ hf.tag
  · exact hdec.tag

/-- Settles O49: the invariant gives both tags below 3. -/
theorem serviceIsNeverAccepted : Obligations.ServiceIsNeverAccepted := by
  intro s hs
  refine ⟨fun ⟨hgv, htag⟩ => ?_, fun ⟨hhv, htag⟩ => ?_⟩
  · exact absurd ((tag_eq_three s.g.tag).1 htag) (Nat.ne_of_lt (hs.blockInv.generator hgv).tag)
  · exact absurd htag (Nat.ne_of_lt (hs.blockInv.header hhv).tag_lt)

end Sys2Proof.Machine
end

section
/-! PROOFS. The statements of 60_exceptions.md: what the error registers hold after a command (R127, R128, R130), NOP (R132),
the words that select no command (R133), a failed command issued again (R139), and requesters that the block cannot tell
apart (R141, R144). -/

namespace Sys2Proof.Machine

/-! ### The error registers after a command (R127 to R133) -/

/-- Settles O23: NOP's body is `ok` with nothing written, and success reports the codes 0. -/
theorem nopClearsTheErrorRegisters : Obligations.NopClearsTheErrorRegisters :=
  fun s => exec_of_ok (t := s) rfl

/-- Settles O33: a body that reaches `ok` leaves the three registers 0, and an error it raises has a code and a field of the
tables, neither of them 0. -/
theorem errorRegistersAfterEveryCommand : Obligations.ErrorRegistersAfterEveryCommand := by
  intro i s
  refine ⟨_, exec_eq_complete i s, ?_⟩
  cases bodyOf i s with
  | ok u => simp
  | error e =>
    obtain ⟨hcode, hcodeMax⟩ := errCode_bounds e.err
    obtain ⟨hfld, hfldMax⟩ := fldCode_bounds e.fld
    exact ⟨hcodeMax, hfldMax, fun h => absurd h hcode, fun _ => hfld⟩

/-- A word written to CMD that selects no command is reported, and nothing else changes (R133). -/
theorem portWrite_cmd_of_not_decode {w : Word} (hw : ¬ ∃ i, decode w = .ok i) (s : State) :
    portWrite (wordAddr 0x000) w s = .next (s.reporting ⟨0x0A, 12, w.toNat⟩) := by
  rw [portWrite_cmd _ _ _ (locate_cmd _), issueWord]
  cases hd : decode w with
  | ok i => exact absurd ⟨i, hd⟩ hw
  | error e => exact congrArg Host.Outcome.next (raise_eq_reporting s ⟨.illegalCommand, .command, w⟩)

/-- Settles O4: the three cases of R133 are those of the words that do not decode. -/
theorem illegalCommandWordsRaise : Obligations.IllegalCommandWordsRaise :=
  fun s w hw => portWrite_cmd_of_not_decode (fun h => (decodeIsTotal w).1 h hw) s

/-! ### A failed command issued again (R139, 40_header_codec.md R106) -/

/-- No command reads the error registers: after an error its body does the same. -/
theorem bodyOf_raise (i : Instr) (s : State) (e : Failure) :
    bodyOf i (s.raise e) = (bodyOf i s).map fun t => t.raise e := by
  cases i with
  | nop => rfl
  | encode =>
    simp only [bodyOf, encodeBody, raise_params, raise_f]
    cases validate s.params.reg s.f.toHeaderConfig <;> rfl
  | decode =>
    simp only [bodyOf, decodeBody, raise_params, raise_hdr]
    cases unpack s.params.reg s.hdr <;> rfl
  | pktCreate => simp only [bodyOf, pktCreateBody, apply_ite (Except.map fun t : State => t.raise e)]; rfl
  | pktAttach => simp only [bodyOf, pktAttachBody, apply_ite (Except.map fun t : State => t.raise e)]; rfl
  | pktDecode =>
    have hh : (s.raise e).dbufHeader = s.dbufHeader := rfl
    simp only [bodyOf, pktDecodeBody, apply_ite (Except.map fun t : State => t.raise e), raise_params, hh]
    cases unpack s.params.reg s.dbufHeader <;> rfl
  | loadDefaults q =>
    simp only [bodyOf, loadDefaultsBody, raise_params]
    cases defaults s.params.reg q <;> rfl
  | build =>
    simp only [bodyOf, buildBody, apply_ite (Except.map fun t : State => t.raise e), raise_params, raise_f]
    cases validate s.params.reg s.f.toHeaderConfig <;> rfl
  | genCreate => simp only [bodyOf, genCreateBody, apply_ite (Except.map fun t : State => t.raise e)]; rfl

/-- Settles O32: the body raises the same error again, and raising it a second time writes what the registers hold. -/
theorem failedCommandFailsAgain : Obligations.FailedCommandFailsAgain := by
  intro i s t h he
  obtain ⟨e, hb, rfl⟩ := raised_of_err_ne_zero h he
  rw [exec_eq_complete, bodyOf_raise, hb]
  rfl

/-! ### Which requester issues an access (R141, R144) -/

/-- A command does the same to the block whatever stands at its port. -/
theorem exec_withPort {i : Instr} {s t : State} (h : exec i s = .next t) (p : Port) :
    exec i (s.withPort p) = .next (t.withPort p) := by
  rw [exec_eq_complete] at h
  cases h
  rw [exec_eq_complete, bodyOf_withPort, complete_withPort]

theorem writePlace_withPort (s : State) (p : Port) (d : Word) (pl : Place) :
    (s.withPort p).writePlace d pl = (s.writePlace d pl).withPort p := by
  cases pl with
  | reg r => cases r <;> rfl
  | buf b w => cases b <;> rfl
  | reserved => rfl

/-- A write does the same to the block whatever stands at its port. -/
theorem portWrite_withPort {wa : BitVec 12} {d : Word} {s t : State} (h : portWrite wa d s = .next t) (p : Port) :
    portWrite wa d (s.withPort p) = .next (t.withPort p) := by
  by_cases hc : locate s.params.dbufCap wa = .reg .cmd
  · rw [portWrite_cmd _ _ _ hc, issueWord] at h
    rw [portWrite_cmd _ _ (s.withPort p) hc, issueWord]
    split at h
    · exact exec_withPort h p
    · cases h; rfl
  · rw [portWrite_place _ _ _ hc] at h
    cases h
    rw [portWrite_place _ _ (s.withPort p) hc, writePlace_withPort, withPort_params]

/-- Settles O8: a read changes the port alone, a write does not see it, and the word that a read returns is the block's. -/
theorem requestersAreIndistinguishable : Obligations.RequestersAreIndistinguishable := by
  intro s p
  refine ⟨fun r r' a => ?_, portRead_withPort s p⟩
  obtain ⟨t, ht⟩ := performAccess_completes r a s
  cases a with
  | read wa => exact ⟨_, _, rfl, rfl, rfl⟩
  | write wa d => exact ⟨t, t.withPort p, ht, portWrite_withPort ht p, rfl⟩

end Sys2Proof.Machine
end

section
/-! PROOFS. The statements of 70_reset_and_hazards.md: no step waits (R156), the values that a reset sets (R147, R148), and
what each command does right after one (R149). -/

namespace Sys2Proof.Machine

/-! ### The reset step (R147, R148, R156) -/

/-- Settles O9: each kind of event answers a next state. -/
theorem everyStepCompletes : Obligations.EveryStepCompletes := step_completes

theorem step_of_reset {s : State} {rest : List Event} (hs : s.port.schedule = .reset :: rest) :
    step s = .next s.takeEvent.resetEvent := by
  simp only [step, runNext, hs]

theorem statusWord_resetEvent (s : State) : s.resetEvent.statusWord = 0 :=
  BitVec.eq_of_toNat_eq (by simp [statusWord_toNat])

theorem pldLen_resetEvent (s : State) : s.resetEvent.pldLen = 0 := rfl

theorem getElem_name_zero (i : Fin 16) : HeaderConfig.zero.name[i] = 0x00 := Vector.getElem_replicate _

/-- After a reset no byte of DBUF is written, so each is the free value of the new epoch (R43). -/
theorem dbufByte_resetEvent (s : State) (k : Nat) :
    s.resetEvent.dbufByte k = Config.unwrittenDbuf (s.epoch + 1) k := rfl

/-- Settles O10: the step takes the event and sets each element to its reset value. -/
theorem resetEventSetsEveryElement : Obligations.ResetEventSetsEveryElement := by
  intro s rest hs
  refine ⟨_, step_of_reset hs, statusWord_resetEvent _, rfl, rfl, rfl, rfl, rfl, pldLen_resetEvent _, -- STATUS to PLDLEN
    rfl, rfl, rfl, rfl, rfl, rfl, rfl, rfl, getElem_name_zero, -- FPROTO to FFRAME, FNAME
    fun _ => Vector.getElem_replicate _, -- HDR
    rfl, rfl, rfl, rfl, rfl, rfl, rfl, getElem_name_zero, -- GPROTO to GNAMELEN, GNAME
    dbufByte_resetEvent _, rfl, ?_⟩
  simp [hs]

/-! ### The commands after a reset (R149) -/

/-- The state after a reset, for any parameters, any port and any values of the model's counters (R148). -/
def State.afterReset (p : Params) (port : Port) (epoch pktEpoch : Nat) : State :=
  { State.reset with params := p, port := port, epoch := epoch, pktEpoch := pktEpoch }

theorem resetEvent_eq_afterReset (s : State) :
    s.resetEvent = .afterReset s.params s.port (s.epoch + 1) (s.pktEpoch + 1) := rfl

theorem rateKnown_audio_iff (reg : Registry) (i : Nat) : RateKnown reg 0 i ↔ HasEntry reg.srTable i := by
  simp [RateKnown]

/-- Where index 0 of SR_TABLE resolves, the field registers of a reset fail first at V4, on FSAMP = 0. -/
theorem encodeGate_zero_of_rate {reg : Registry} (h : HasEntry reg.srTable 0) :
    EncodeGate reg HeaderConfig.zero ⟨0x04, 4, 0⟩ :=
  .v4 (by decide) ((rateKnown_audio_iff reg 0).2 h) fun ⟨hmin, _⟩ => absurd hmin (by decide)

/-- Where it does not, they fail first at V3, on FRATE = 0. -/
theorem encodeGate_zero_of_no_rate {reg : Registry} (h : ¬ HasEntry reg.srTable 0) :
    EncodeGate reg HeaderConfig.zero ⟨0x04, 3, 0⟩ :=
  .v3 (by decide) (mt (rateKnown_audio_iff reg 0).1 h)

/-- A header that is all zero fails at U1. -/
theorem decodeGate_zero (reg : Registry) : DecodeGate reg (Vector.replicate 28 0) ⟨0x01, 1, 0⟩ := by
  have hmagic : ¬ MagicOk (Vector.replicate 28 0) := fun ⟨hV, _⟩ => absurd hV (by decide)
  simpa [be32Nat] using DecodeGate.u1 (reg := reg) hmagic

/-- The first rate of REG_VBAN is 6000 Hz (R80). -/
theorem hasEntry_srVban_zero : HasEntry registryVban.srTable 0 := ⟨6000, by decide⟩

/-- LOAD_DEFAULTS of Audio, Serial or Text writes the field registers but FFRAME, and sets PSET. -/
theorem exec_loadDefaults_afterReset (p : Params) (port : Port) (epoch pktEpoch : Nat) {t : BitVec 3} (ht : t.toNat < 3) :
    ∃ u, exec (.loadDefaults t) (.afterReset p port epoch pktEpoch) = .next u ∧ u.f.tag = t ∧ u.f.frame = 0 ∧
      u = { State.afterReset p port epoch pktEpoch with f := u.f, pset := true } := by
  obtain ⟨hdefaults, -⟩ := loadDefaultsCommand (.afterReset p port epoch pktEpoch) t
  obtain ⟨u, hu, hframe, htag, -⟩ := hdefaults ht
  have hf : u.f = { u.f with frame := 0 } := (congrArg State.f hframe :)
  refine ⟨u, hu, htag, (congrArg Fields.frame hf :), ?_⟩
  rw [hf]
  exact hframe

/-- Settles O11: each command meets the reset values at its own first gate that they fail, or has none to fail. -/
theorem commandsAfterReset : Obligations.CommandsAfterReset := by
  refine ⟨?_, fun s rest hs => ⟨_, step_of_reset hs, resetEvent_eq_afterReset _⟩⟩
  intro p port epoch pktEpoch _
  obtain ⟨-, hencode⟩ := encodeCommand (.afterReset p port epoch pktEpoch)
  obtain ⟨-, hbuild, -⟩ := buildCommand (.afterReset p port epoch pktEpoch)
  obtain ⟨-, hpktCreate⟩ := pktCreateCommand (.afterReset p port epoch pktEpoch)
  obtain ⟨-, hpktAttach, -⟩ := pktAttachCommand (.afterReset p port epoch pktEpoch)
  obtain ⟨-, hgenCreate⟩ := genCreateCommand (.afterReset p port epoch pktEpoch)
  obtain ⟨-, hdecode⟩ := decodeCommand (.afterReset p port epoch pktEpoch)
  obtain ⟨-, hpktDecode, -⟩ := pktDecodeCommand (.afterReset p port epoch pktEpoch) _ (getElem_dbufHeader _)
  refine ⟨⟨rfl, rfl, rfl, rfl, rfl⟩, fun h => hencode _ (encodeGate_zero_of_rate h),
    fun h => hencode _ (encodeGate_zero_of_no_rate h), fun hreg => hreg ▸ hasEntry_srVban_zero,
    hbuild rfl, hpktCreate rfl, hpktAttach rfl, hgenCreate rfl, hdecode _ (decodeGate_zero p.reg),
    hpktDecode (Nat.zero_lt_succ 27), nopClearsTheErrorRegisters _, fun t => ?_⟩
  obtain ⟨-, hinvalid, hservice⟩ := loadDefaultsCommand (.afterReset p port epoch pktEpoch) t
  exact ⟨exec_loadDefaults_afterReset p port epoch pktEpoch, hservice, hinvalid⟩

end Sys2Proof.Machine
end
